-- ==== Sys2Proof/Word.lean ====
section
/-! DEFINITION. The one word of the block: a stream byte (00_scope.md R6), an unsigned value of `BYTE_BITS` bits. -/

namespace Sys2Proof

/-- `BYTE_BITS` of R5: the bits of one stream byte. It stands here and not in Config.lean because the other constants are
bytes. Reducible, so that the arithmetic of `BitVec 8` applies to a byte. -/
abbrev Config.byteBits : Nat := 8

/-- Every element of the stream, of `buf`, of a frame and of a payload (R6). -/
abbrev Byte := BitVec Config.byteBits

end Sys2Proof
end

