-- ==== Sys2Proof/Config.lean ====
section
/-! DEFINITION. The named constants of 00_scope.md R5 (hardwired, 10_state.md R11) and the two open parameters of
92_eei_decisions.md: `BUF_CAP` (D2) and `NOFAULTS_IGNORES_HIGH_BITS` (D10). `BYTE_BITS`, the width of the other constants, is
`Config.byteBits` of Word.lean. -/

namespace Sys2Proof.Config

/-- `SENTINEL`: the start-of-frame byte. -/
def sentinel : Byte := 0xFB

/-- `TERMINATOR`: the end-of-frame byte. -/
def terminator : Byte := 0xFE

/-- `HEADER_MIN`: how many bytes must exist from the sentinel onward before the length is read (R48). -/
def headerMin : Nat := 5

/-- `LEN_OFFSET`: the offset of the length field from the sentinel. -/
def lenOffset : Nat := 2

/-- `CMD_OFFSET`: the offset of the command from the sentinel; the same byte as the length (R31). -/
def cmdOffset : Nat := 2

/-- `PAYLOAD_OFFSET`: the offset of the first payload byte from the sentinel. -/
def payloadOffset : Nat := 3

/-- `CMD_TELEMETRY`: the only recognised command. -/
def cmdTelemetry : Byte := 0x11

/-- `TELEMETRY_MIN_PAYLOAD`: the guard of R71. -/
def telemetryMinPayload : Nat := 15

/-- `CHECKSUM_MODULUS`. -/
def checksumModulus : Nat := 256

/-- `FAULT_CONTROLLER`. -/
def faultController : Byte := 0x01

/-- `FAULT_DISPLAY`. -/
def faultDisplay : Byte := 0x02

/-- `FAULT_BATTERY`. -/
def faultBattery : Byte := 0x04

/-- `FAULT_CURRENT_LIMIT`. -/
def faultCurrentLimit : Byte := 0x08

/-- `BUF_CAP` (open parameter, D2): `none` is the source's unbounded buffer (R26); `some n` would be a deviation that
makes an append beyond `n` bytes a model fault. Log entry 8. -/
def bufCap : Option Nat := none

/-- `NOFAULTS_IGNORES_HIGH_BITS` (open parameter, D10): whether R81's "when zero" means the four defined bits (`true`,
the spec's reading) or the whole byte. Log entry 9. -/
def noFaultsIgnoresHighBits : Bool := true

end Sys2Proof.Config
end

