-- ==== Sys2Proof/Machine/Event.lean ====
section
/-! DEFINITION. The values the block hands on: the telemetry record (43_telemetrydecoder.md R69), the events
(30_encoding.md R43), the validator's outcome (41_framevalidator.md R57) and the wait reasons (40_framescanner.md R56). -/

namespace Sys2Proof.Machine

/-- The identifiers of R80's fault descriptors; their text is the sink's (D10). -/
inductive FaultName where
  | controllerFault
  | displayFault
  | batteryFault
  | currentLimiting
  deriving DecidableEq, Repr

/-- The record of R69: the two fixed-point fields are carried in tenths (R72, R74). -/
structure TelemetryRecord where
  odometerRaw     : BitVec 24
  totalTime       : BitVec 24
  tripDistanceRaw : BitVec 16
  tripTime        : BitVec 24
  remainingRange  : Byte
  batteryPercent  : Byte
  errorFlags      : Byte
  faults          : List FaultName
  noFaults        : Bool
  deriving DecidableEq, Repr

/-- R72: the exact value of the odometer, a number of tenths divided by ten. -/
def TelemetryRecord.odometer (r : TelemetryRecord) : Rat := (r.odometerRaw.toNat : Rat) / 10

/-- R74: the exact value of the trip distance. -/
def TelemetryRecord.tripDistance (r : TelemetryRecord) : Rat := (r.tripDistanceRaw.toNat : Rat) / 10

/-- R72: integer part and the one fractional digit of a count of tenths. -/
def tenths (raw : Nat) : Nat × Nat := (raw / 10, raw % 10)

/-- Where a record being built starts, field by field (log entry 3): what decoding fifteen zero bytes gives. -/
def TelemetryRecord.blank : TelemetryRecord :=
  { odometerRaw := 0, totalTime := 0, tripDistanceRaw := 0, tripTime := 0, remainingRange := 0,
    batteryPercent := 0, errorFlags := 0, faults := [], noFaults := true }

/-- The one reason of `DecodeError` (R43, R71). -/
inductive DecodeReason where
  | insufficientPayload
  deriving DecidableEq, Repr

/-- The five events of R43, with exactly the fields of the source's interface (D11). -/
inductive Event where
  | frameAccepted (command : Byte)
  | terminatorMismatch (expected actual : Byte)
  | checksumMismatch (expected actual : Byte)
  | telemetryDecoded (record : TelemetryRecord)
  | decodeError (reason : DecodeReason)
  deriving DecidableEq, Repr

/-- R99: the spec's own numbers for the events, for a realisation that needs them (D7). -/
def Event.code : Event → Nat
  | .frameAccepted _ => 0
  | .terminatorMismatch _ _ => 1
  | .checksumMismatch _ _ => 2
  | .telemetryDecoded _ => 3
  | .decodeError _ => 4

/-- R99: the number of a `DecodeError` reason (D7). -/
def DecodeReason.code : DecodeReason → Nat
  | .insufficientPayload => 0

/-- R57: the validator's three outcomes, each with the values its event reports. -/
inductive Verdict where
  | terminatorBad (actual : Byte)
  | checksumBad (calculated cks : Byte)
  | valid (cmd : Byte) (payload : List Byte)
  deriving DecidableEq, Repr

/-- R56: why a transaction stopped. -/
inductive WaitReason where
  | sentinel
  | header
  | body
  deriving DecidableEq, Repr

end Sys2Proof.Machine
end

