-- ==== Sys2Proof/Machine/Flags.lean ====
section
/-! DEFINITION. The error-flag byte of payload offset 14: 30_encoding.md R40, 43_telemetrydecoder.md R80 and R81. The
block has no status flags of its own (10_state.md R10). -/

namespace Sys2Proof.Machine

/-- Whether the bits of `mask` that `flags` holds are not all clear (R80: `(f & (1 << i)) ≠ 0`). -/
def flagSet (flags mask : Byte) : Bool := flags &&& mask != 0

/-- One entry of R80's list: the name when its bit is set. -/
def faultIf (flags mask : Byte) (name : FaultName) : List FaultName :=
  if flagSet flags mask then [name] else []

/-- R80: the names of the set bits, in ascending bit order; bits 4 to 7 add nothing. -/
def faultList (flags : Byte) : List FaultName :=
  faultIf flags Config.faultController .controllerFault ++ faultIf flags Config.faultDisplay .displayFault ++
    faultIf flags Config.faultBattery .batteryFault ++ faultIf flags Config.faultCurrentLimit .currentLimiting

/-- The list of R80 with one name in it or not: the others stay as they are, in ascending bit order. -/
def withFault (present : Bool) (name : FaultName) (faults : List FaultName) : List FaultName :=
  [.controllerFault, .displayFault, .batteryFault, .currentLimiting].filter fun other =>
    if other = name then present else faults.contains other

/-- The four defined bits of R40. -/
def definedFaults : Byte :=
  Config.faultController ||| Config.faultDisplay ||| Config.faultBattery ||| Config.faultCurrentLimit

/-- R81 under either reading of D10: `ignoreHigh` looks at the four defined bits only. -/
def noFaultsWith (ignoreHigh : Bool) (flags : Byte) : Bool :=
  if ignoreHigh then !flagSet flags definedFaults else flags == 0

/-- R81: the no-faults indicator. -/
def noFaultsOf (flags : Byte) : Bool := noFaultsWith Config.noFaultsIgnoresHighBits flags

end Sys2Proof.Machine
end

