-- ==== Sys2Proof/Machine/Operands.lean ====
section
/-! DEFINITION. Operand forms: reading sequences of bytes (20_memory.md R16 to R19), assembling fields (30_encoding.md
R39), the checksum (42_checksumengine.md R65), and the byte lists of frames (30_encoding.md R28, R44). -/

namespace Sys2Proof.Machine

/-- R18: the byte at an index, defined only below the length. -/
def byteAt (bytes : List Byte) (i : Nat) : Option Byte := bytes[i]?

/-- R19 and 00_scope.md section 5: the elements with index `a ≤ i < b`, clipped, empty when `a ≥ b` (D8). -/
def slice (bytes : List Byte) (a b : Nat) : List Byte := (bytes.take b).drop a

/-- `FindFirst(v)`: the least index that holds `v`. -/
def findFirst (v : Byte) : List Byte → Option Nat
  | [] => none
  | b :: rest => if b = v then some 0 else (findFirst v rest).map (· + 1)

/-- `Σ s`, a natural number of any size. -/
def sumBytes : List Byte → Nat
  | [] => 0
  | b :: rest => b.toNat + sumBytes rest

/-- R65: unbounded sum, reduced once at the end. -/
def checksumOf (len cmd : Byte) (payload : List Byte) : Byte :=
  BitVec.ofNat Config.byteBits ((len.toNat + cmd.toNat + sumBytes payload) % Config.checksumModulus)

/-- `le16(b0, b1)` of 00_scope.md section 5. -/
def le16 (b0 b1 : Byte) : BitVec 16 := BitVec.ofNat 16 (b0.toNat + 256 * b1.toNat)

/-- `le24(b0, b1, b2)` of 00_scope.md section 5. -/
def le24 (b0 b1 b2 : Byte) : BitVec 24 := BitVec.ofNat 24 (b0.toNat + 256 * b1.toNat + 65536 * b2.toNat)

/-- R49: the exclusive end of a candidate, `startIndex + 2 + len + 1`. -/
def frameEndOf (s : Nat) (len : Byte) : Nat := s + Config.lenOffset + len.toNat + 1

/-- R60: offsets 3 up to the checksum. -/
def payloadOf (frame : List Byte) : List Byte := slice frame Config.payloadOffset (frame.length - 2)

/-- R38, R39, R69: the record of a payload, from its offsets 0 to 14 (later bytes are ignored, R82; offset 12 is not
used, R77); none where one of those offsets does not exist. -/
def recordOf : List Byte → Option TelemetryRecord
  | p0 :: p1 :: p2 :: p3 :: p4 :: p5 :: p6 :: p7 :: p8 :: p9 :: p10 :: p11 :: _ :: p13 :: p14 :: _ =>
    some { odometerRaw := le24 p0 p1 p2, totalTime := le24 p3 p4 p5, tripDistanceRaw := le16 p6 p7,
           tripTime := le24 p8 p9 p10, remainingRange := p11, batteryPercent := p13, errorFlags := p14,
           faults := faultList p14, noFaults := noFaultsOf p14 }
  | _ => none

/-- The little-endian bytes of a 24-bit field (R20). -/
def bytes24 (v : BitVec 24) : List Byte :=
  [v.extractLsb' 0 Config.byteBits, v.extractLsb' Config.byteBits Config.byteBits,
    v.extractLsb' (2 * Config.byteBits) Config.byteBits]

/-- The little-endian bytes of a 16-bit field (R20). -/
def bytes16 (v : BitVec 16) : List Byte :=
  [v.extractLsb' 0 Config.byteBits, v.extractLsb' Config.byteBits Config.byteBits]

/-- The payload of R38 that carries a record, with byte 12 zero. -/
def recordBytes (r : TelemetryRecord) : List Byte :=
  bytes24 r.odometerRaw ++ bytes24 r.totalTime ++ bytes16 r.tripDistanceRaw ++ bytes24 r.tripTime ++
    [r.remainingRange, 0, r.batteryPercent, r.errorFlags]

/-- R28, R44: the bytes of `FRAME len, rsv, payload`. -/
def frameBytes (len rsv : Byte) (payload : List Byte) : List Byte :=
  Config.sentinel :: rsv :: len :: payload ++ [checksumOf len len payload, Config.terminator]

/-- R50: what the scanner can hand to the validator: `L + 3` bytes that begin with the sentinel. -/
def isCandidate (frame : List Byte) : Bool :=
  match byteAt frame Config.lenOffset with
  | some len => frame.length == frameEndOf 0 len && byteAt frame 0 == some Config.sentinel
  | none => false

end Sys2Proof.Machine
end

