-- ==== Sys2Proof/Machine/Scan.lean ====
section
/-! DEFINITION. The algorithm of 44_core_interface.md R85 over plain values: what the validator answers for a candidate,
where the scan stops, what one iteration emits and drops, and the loop. The operations on State use these. -/

namespace Sys2Proof.Machine

/-- R69 to R71, R82: the decoder's event, if any. -/
def decodeEvents (cmd : Byte) (payload : List Byte) : List Event :=
  if cmd = Config.cmdTelemetry then
    if payload.length < Config.telemetryMinPayload then [.decodeError .insufficientPayload]
    else match recordOf payload with
      | some r => [.telemetryDecoded r]
      | none => [.decodeError .insufficientPayload]
  else []

/-- R58, R62, R63, R86: the events of an outcome, the validator's first. -/
def Verdict.events : Verdict → List Event
  | .terminatorBad actual => [.terminatorMismatch Config.terminator actual]
  | .checksumBad calculated cks => [.checksumMismatch calculated cks]
  | .valid cmd payload => .frameAccepted cmd :: decodeEvents cmd payload

/-- R51, R52, R64: how many bytes an outcome drops from the head. -/
def Verdict.drop (s e : Nat) : Verdict → Nat
  | .terminatorBad _ => s + 1
  | .checksumBad _ _ => e
  | .valid _ _ => e

/-- R57, R64: steps (a) to (f) in order; none where a step would read a byte the frame does not have (the validator is
total on every frame the scanner produces). -/
def classify (frame : List Byte) : Option Verdict :=
  match byteAt frame (frame.length - 1) with
  | none => none
  | some last =>
    if last ≠ Config.terminator then some (.terminatorBad last)
    else
      match byteAt frame Config.lenOffset, byteAt frame Config.cmdOffset, byteAt frame (frame.length - 2) with
      | some len, some cmd, some cks =>
        if checksumOf len cmd (payloadOf frame) ≠ cks then
          some (.checksumBad (checksumOf len cmd (payloadOf frame)) cks)
        else some (.valid cmd (payloadOf frame))
      | _, _, _ => none

/-- What steps 2 to 4 find: a stop, or a complete candidate between two indices. -/
inductive Located where
  | wait (w : WaitReason)
  | candidate (s e : Nat)
  deriving DecidableEq, Repr

/-- R48: fewer than `HEADER_MIN` bytes exist from an index onward. -/
def headerShort (buf : List Byte) (s : Nat) : Bool := decide (buf.length - s < Config.headerMin)

/-- Steps 2 to 4: R47, R48, R49. -/
def locate (buf : List Byte) : Located :=
  match findFirst Config.sentinel buf with
  | none => .wait .sentinel
  | some s =>
    if headerShort buf s then .wait .header
    else match byteAt buf (s + Config.lenOffset) with
      | none => .wait .header
      | some len => if buf.length < frameEndOf s len then .wait .body else .candidate s (frameEndOf s len)

/-- One iteration of the loop (R53): none where it stops, else the events emitted and the bytes dropped. -/
def resolve (buf : List Byte) : Option (List Event × Nat) :=
  match locate buf with
  | .wait _ => none
  | .candidate s e => (classify (slice buf s e)).map fun v => (v.events, v.drop s e)

/-- The loop of R85 for at most `fuel` continuing iterations. -/
def scanLoop : Nat → List Byte → List Event × List Byte
  | 0, buf => ([], buf)
  | fuel + 1, buf =>
    match resolve buf with
    | none => ([], buf)
    | some (events, k) => (events ++ (scanLoop fuel (buf.drop k)).1, (scanLoop fuel (buf.drop k)).2)

/-- The loop of R85: `|buf|` continuing iterations are enough, since each drops a byte (R53). -/
def scan (buf : List Byte) : List Event × List Byte := scanLoop buf.length buf

/-- R56: why the scan stops on a buffer, a function of the buffer alone. -/
def waitReason (buf : List Byte) : WaitReason :=
  match locate buf with
  | .wait w => w
  | .candidate _ _ => .body

end Sys2Proof.Machine
end

