-- ==== Sys2Proof/Syntax.lean ====
section
/-! DEFINITION. The operations of the block: one constructor for each row of spec/opcode_table.json, in the table's
order, with the operands the row's rule names. -/

namespace Sys2Proof

open Sys2Proof.Machine

/-- The fifty rows of the opcode table (30_encoding.md section 8 says what each format is). -/
inductive Instr where
  -- HOSTOP: the two host operations
  | ingest (chunk : List Byte)
  | reset
  -- SCANSTEP: FrameScanner, steps 1 to 7
  | scanAppend (chunk : List Byte)
  | scanFind
  | scanHeader (startIndex : Nat)
  | scanLength (startIndex : Nat)
  | scanSlice (startIndex frameEnd : Nat)
  | scanResync (startIndex : Nat)
  | scanConsume (frameEnd : Nat)
  -- VALSTEP: FrameValidator, steps (a) to (f)
  | validate (frame : List Byte)
  | valTerm (frame : List Byte)
  | valExtract (frame : List Byte)
  | valPayload (frame : List Byte)
  | valCalc (len cmd : Byte) (payload : List Byte)
  | valMismatch (calculated cks : Byte)
  | valAccept (cmd : Byte) (payload : List Byte)
  -- FUNCTION: ChecksumEngine and TelemetryDecoder
  | checksum (len cmd : Byte) (payload : List Byte)
  | decode (cmd : Byte) (payload : List Byte)
  | decodeOther (cmd : Byte) (payload : List Byte)
  | decodeGuard (cmd : Byte) (payload : List Byte)
  -- FRAME and FRAMEBYTE: bytes on the wire
  | frame (len rsv : Byte) (payload : List Byte)
  | frameHeader (rsv len : Byte)
  | frameSentinel
  | frameReserved (b : Byte)
  | frameTerminator
  | telem (rsv : Byte) (payload : List Byte)
  -- CMDBYTE: what the command byte decides
  | cmdTelemetry (payload : List Byte)
  | cmdUnrecognized (cmd : Byte) (payload : List Byte)
  | cmdLen0
  | cmdLen1 (last : Byte)
  -- PAYLOAD11: the payload of command 0x11 and its fields
  | telemPayload (payload : List Byte)
  | telemOdometer (b0 b1 b2 : Byte)
  | telemTotalTime (b0 b1 b2 : Byte)
  | telemTripDistance (b0 b1 : Byte)
  | telemTripTime (b0 b1 b2 : Byte)
  | telemRemainingRange (b : Byte)
  | telemReserved12 (b : Byte)
  | telemBatteryPercent (b : Byte)
  | telemErrorFlags (b : Byte)
  -- ERRFLAGS: payload byte 14
  | errFlagController (flags : Byte)
  | errFlagDisplay (flags : Byte)
  | errFlagBattery (flags : Byte)
  | errFlagCurrentLimiting (flags : Byte)
  | errFlagIgnored (flags : Byte)
  | noFaults (flags : Byte)
  -- EVENT: the five events
  | evFrameAccepted (cmd : Byte)
  | evTerminatorMismatch (expected actual : Byte)
  | evChecksumMismatch (expected actual : Byte)
  | evTelemetryDecoded (record : TelemetryRecord)
  | evDecodeError (reason : DecodeReason)
  deriving DecidableEq, Repr

end Sys2Proof
end

