-- ==== Sys2Proof/WellFormed.lean ====
section
/-! DEFINITION. Which operands a row of the opcode table admits: the row's fixed bits, its byte counts and the range of
its fields. A row whose rule gives a meaning for every operand is unrestricted. -/

namespace Sys2Proof

open Sys2Proof.Machine

/-- R69 to R81: a record the decoder can build carries the descriptors its flag byte gives. -/
def recordConsistent (r : TelemetryRecord) : Bool :=
  r.faults == faultList r.errorFlags && r.noFaults == noFaultsOf r.errorFlags

/-- The operands a row admits. -/
def Instr.wf : Instr → Bool
  | .ingest _ => true
  | .reset => true
  | .scanAppend _ => true
  | .scanFind => true
  | .scanHeader _ => true
  | .scanLength _ => true
  | .scanSlice _ _ => true
  | .scanResync _ => true
  | .scanConsume _ => true
  | .validate candidate => isCandidate candidate
  | .valTerm candidate => isCandidate candidate
  | .valExtract candidate => isCandidate candidate
  | .valPayload candidate => isCandidate candidate
  | .valCalc _ _ _ => true
  | .valMismatch _ _ => true
  | .valAccept _ _ => true
  | .checksum _ _ _ => true
  | .decode _ _ => true
  | .decodeOther cmd _ => cmd != Config.cmdTelemetry
  | .decodeGuard cmd payload => cmd == Config.cmdTelemetry && decide (payload.length < Config.telemetryMinPayload)
  | .frame len _ payload => payload.length == len.toNat - 2
  | .frameHeader _ _ => true
  | .frameSentinel => true
  | .frameReserved _ => true
  | .frameTerminator => true
  | .telem _ payload => payload.length == Config.cmdTelemetry.toNat - 2
  | .cmdTelemetry payload => payload.length == Config.cmdTelemetry.toNat - 2
  | .cmdUnrecognized cmd payload =>
    cmd != Config.cmdTelemetry && decide (2 ≤ cmd.toNat) && payload.length == cmd.toNat - 2
  | .cmdLen0 => true
  | .cmdLen1 _ => true
  | .telemPayload payload => payload.length == Config.telemetryMinPayload
  | .telemOdometer _ _ _ => true
  | .telemTotalTime _ _ _ => true
  | .telemTripDistance _ _ => true
  | .telemTripTime _ _ _ => true
  | .telemRemainingRange _ => true
  | .telemReserved12 _ => true
  | .telemBatteryPercent _ => true
  | .telemErrorFlags _ => true
  | .errFlagController flags => flagSet flags Config.faultController
  | .errFlagDisplay flags => flagSet flags Config.faultDisplay
  | .errFlagBattery flags => flagSet flags Config.faultBattery
  | .errFlagCurrentLimiting flags => flagSet flags Config.faultCurrentLimit
  | .errFlagIgnored _ => true
  | .noFaults flags => !flagSet flags definedFaults
  | .evFrameAccepted _ => true
  | .evTerminatorMismatch expected actual => expected == Config.terminator && actual != Config.terminator
  | .evChecksumMismatch expected actual => expected != actual
  | .evTelemetryDecoded record => recordConsistent record
  | .evDecodeError _ => true

end Sys2Proof
end

