-- ==== Sys2Proof/Decode.lean ====
section
/-! DEFINITION. Reading an operation from bytes, and writing it as bytes. The source gives the operations no bit pattern
(opcode_table.json: "no bit pattern exists"), so the model's message form is log entry 5: the first byte is the row's
place in opcode_table.json, the bytes after it are the row's own encoding where the spec gives one (30_encoding.md
R28 to R40) and its operands in the rule's order where it gives none. -/

namespace Sys2Proof

open Sys2Proof.Machine

/-- Why a message is no operation. -/
inductive Reject where
  /-- There is no first byte. -/
  | emptyMessage
  /-- The first byte is the place of no row. -/
  | noSuchRow (row : Nat)
  /-- The bytes after the first are not of the row's form (a missing byte, a byte too many, a wrong fixed byte). -/
  | badOperands (row : Nat)
  /-- The operands are of the row's form but the row does not admit them (WellFormed). -/
  | illFormed (row : Nat)
  deriving DecidableEq, Repr

/-- A natural number in groups of seven bits, least significant first; the top bit of a byte says that more follow.
`fuel` bounds the number of groups. -/
def natBytesFrom : Nat → Nat → List Byte
  | 0, n => [BitVec.ofNat Config.byteBits (n % 128)]
  | fuel + 1, n =>
    if n < 128 then [BitVec.ofNat Config.byteBits n] else BitVec.ofNat Config.byteBits (n % 128 + 128) :: natBytesFrom fuel (n / 128)

/-- The bytes of a natural-number operand. -/
def natBytes (n : Nat) : List Byte := natBytesFrom n n

/-- A natural-number operand and the bytes after it. -/
def readNat : List Byte → Option (Nat × List Byte)
  | [] => none
  | b :: rest =>
    if b.toNat < 128 then some (b.toNat, rest)
    else (readNat rest).map fun (n, after) => (b.toNat - 128 + 128 * n, after)

/-- No operand bytes. -/
def readNone (i : Instr) : List Byte → Option Instr
  | [] => some i
  | _ => none

/-- One operand byte. -/
def readOne (f : Byte → Instr) : List Byte → Option Instr
  | [b] => some (f b)
  | _ => none

/-- Two operand bytes. -/
def readTwo (f : Byte → Byte → Instr) : List Byte → Option Instr
  | [b0, b1] => some (f b0 b1)
  | _ => none

/-- Three operand bytes. -/
def readThree (f : Byte → Byte → Byte → Instr) : List Byte → Option Instr
  | [b0, b1, b2] => some (f b0 b1 b2)
  | _ => none

/-- One fixed byte and then operands of another form. -/
def readFixed (b : Byte) (k : List Byte → Option Instr) : List Byte → Option Instr
  | [] => none
  | b' :: rest => if b' = b then k rest else none

/-- A command and a payload. -/
def readCommand (f : Byte → List Byte → Instr) : List Byte → Option Instr
  | cmd :: payload => some (f cmd payload)
  | _ => none

/-- A length, a command and a payload. -/
def readLenCommand (f : Byte → Byte → List Byte → Instr) : List Byte → Option Instr
  | len :: cmd :: payload => some (f len cmd payload)
  | _ => none

/-- One natural number. -/
def readIndex (f : Nat → Instr) (bytes : List Byte) : Option Instr :=
  match readNat bytes with
  | some (n, []) => some (f n)
  | _ => none

/-- Two natural numbers. -/
def readTwoIndices (f : Nat → Nat → Instr) (bytes : List Byte) : Option Instr :=
  match readNat bytes with
  | some (n, rest) => readIndex (f n) rest
  | none => none

/-- R28: a whole frame, byte by byte; the bytes must be exactly those of the frame with this length, reserved byte and
payload. -/
def readFrame (f : Byte → Byte → List Byte → Instr) : List Byte → Option Instr
  | b0 :: rsv :: len :: rest =>
    if b0 :: rsv :: len :: rest = frameBytes len rsv (rest.take (len.toNat - 2)) then
      some (f len rsv (rest.take (len.toNat - 2)))
    else none
  | _ => none

/-- R44: a whole frame whose length byte is the telemetry command. -/
def readTelem (bytes : List Byte) : Option Instr :=
  if byteAt bytes Config.lenOffset = some Config.cmdTelemetry then readFrame (fun _ rsv payload => .telem rsv payload) bytes
  else none

/-- A record written as the payload that carries it, byte 12 zero. -/
def readRecord (bytes : List Byte) : Option Instr :=
  match recordOf bytes with
  | some r => if recordBytes r = bytes then some (.evTelemetryDecoded r) else none
  | none => none

/-- The operands of the row at a place of opcode_table.json. -/
def decodeOperands (row : Nat) (bytes : List Byte) : Option Instr :=
  match row with
  | 0 => some (.ingest bytes)
  | 1 => readNone .reset bytes
  | 2 => some (.scanAppend bytes)
  | 3 => readNone .scanFind bytes
  | 4 => readIndex .scanHeader bytes
  | 5 => readIndex .scanLength bytes
  | 6 => readTwoIndices .scanSlice bytes
  | 7 => readIndex .scanResync bytes
  | 8 => readIndex .scanConsume bytes
  | 9 => some (.validate bytes)
  | 10 => some (.valTerm bytes)
  | 11 => some (.valExtract bytes)
  | 12 => some (.valPayload bytes)
  | 13 => readLenCommand .valCalc bytes
  | 14 => readTwo .valMismatch bytes
  | 15 => readCommand .valAccept bytes
  | 16 => readLenCommand .checksum bytes
  | 17 => readCommand .decode bytes
  | 18 => readCommand .decodeOther bytes
  | 19 => readCommand .decodeGuard bytes
  | 20 => readFrame .frame bytes
  | 21 => readFixed Config.sentinel (readTwo .frameHeader) bytes
  | 22 => readFixed Config.sentinel (readNone .frameSentinel) bytes
  | 23 => readOne .frameReserved bytes
  | 24 => readFixed Config.terminator (readNone .frameTerminator) bytes
  | 25 => readTelem bytes
  | 26 => readFixed Config.cmdTelemetry (fun rest => some (.cmdTelemetry rest)) bytes
  | 27 => readCommand .cmdUnrecognized bytes
  | 28 => readFixed 0x00 (readNone .cmdLen0) bytes
  | 29 => readFixed 0x01 (readOne .cmdLen1) bytes
  | 30 => some (.telemPayload bytes)
  | 31 => readThree .telemOdometer bytes
  | 32 => readThree .telemTotalTime bytes
  | 33 => readTwo .telemTripDistance bytes
  | 34 => readThree .telemTripTime bytes
  | 35 => readOne .telemRemainingRange bytes
  | 36 => readOne .telemReserved12 bytes
  | 37 => readOne .telemBatteryPercent bytes
  | 38 => readOne .telemErrorFlags bytes
  | 39 => readOne .errFlagController bytes
  | 40 => readOne .errFlagDisplay bytes
  | 41 => readOne .errFlagBattery bytes
  | 42 => readOne .errFlagCurrentLimiting bytes
  | 43 => readOne .errFlagIgnored bytes
  | 44 => readOne .noFaults bytes
  | 45 => readOne .evFrameAccepted bytes
  | 46 => readTwo .evTerminatorMismatch bytes
  | 47 => readTwo .evChecksumMismatch bytes
  | 48 => readRecord bytes
  | 49 => readFixed (BitVec.ofNat Config.byteBits DecodeReason.insufficientPayload.code)
            (readNone (.evDecodeError .insufficientPayload)) bytes
  | _ => none

/-- How many rows the table has. -/
def rowCount : Nat := 50

/-- The operation a message holds, or why it holds none: total on any bytes. -/
def decode : List Byte → Except Reject Instr
  | [] => .error .emptyMessage
  | tag :: bytes =>
    if tag.toNat < rowCount then
      match decodeOperands tag.toNat bytes with
      | some i => if i.wf then .ok i else .error (.illFormed tag.toNat)
      | none => .error (.badOperands tag.toNat)
    else .error (.noSuchRow tag.toNat)

/-- The place of an operation's row in opcode_table.json. -/
def rowOf : Instr → Nat
  | .ingest _ => 0
  | .reset => 1
  | .scanAppend _ => 2
  | .scanFind => 3
  | .scanHeader _ => 4
  | .scanLength _ => 5
  | .scanSlice _ _ => 6
  | .scanResync _ => 7
  | .scanConsume _ => 8
  | .validate _ => 9
  | .valTerm _ => 10
  | .valExtract _ => 11
  | .valPayload _ => 12
  | .valCalc _ _ _ => 13
  | .valMismatch _ _ => 14
  | .valAccept _ _ => 15
  | .checksum _ _ _ => 16
  | .decode _ _ => 17
  | .decodeOther _ _ => 18
  | .decodeGuard _ _ => 19
  | .frame _ _ _ => 20
  | .frameHeader _ _ => 21
  | .frameSentinel => 22
  | .frameReserved _ => 23
  | .frameTerminator => 24
  | .telem _ _ => 25
  | .cmdTelemetry _ => 26
  | .cmdUnrecognized _ _ => 27
  | .cmdLen0 => 28
  | .cmdLen1 _ => 29
  | .telemPayload _ => 30
  | .telemOdometer _ _ _ => 31
  | .telemTotalTime _ _ _ => 32
  | .telemTripDistance _ _ => 33
  | .telemTripTime _ _ _ => 34
  | .telemRemainingRange _ => 35
  | .telemReserved12 _ => 36
  | .telemBatteryPercent _ => 37
  | .telemErrorFlags _ => 38
  | .errFlagController _ => 39
  | .errFlagDisplay _ => 40
  | .errFlagBattery _ => 41
  | .errFlagCurrentLimiting _ => 42
  | .errFlagIgnored _ => 43
  | .noFaults _ => 44
  | .evFrameAccepted _ => 45
  | .evTerminatorMismatch _ _ => 46
  | .evChecksumMismatch _ _ => 47
  | .evTelemetryDecoded _ => 48
  | .evDecodeError _ => 49

/-- The bytes after the first: the row's encoding in the spec, else its operands in the rule's order. -/
def operandBytes : Instr → List Byte
  | .ingest chunk => chunk
  | .reset => []
  | .scanAppend chunk => chunk
  | .scanFind => []
  | .scanHeader s => natBytes s
  | .scanLength s => natBytes s
  | .scanSlice s e => natBytes s ++ natBytes e
  | .scanResync s => natBytes s
  | .scanConsume e => natBytes e
  | .validate frame => frame
  | .valTerm frame => frame
  | .valExtract frame => frame
  | .valPayload frame => frame
  | .valCalc len cmd payload => len :: cmd :: payload
  | .valMismatch calculated cks => [calculated, cks]
  | .valAccept cmd payload => cmd :: payload
  | .checksum len cmd payload => len :: cmd :: payload
  | .decode cmd payload => cmd :: payload
  | .decodeOther cmd payload => cmd :: payload
  | .decodeGuard cmd payload => cmd :: payload
  | .frame len rsv payload => frameBytes len rsv payload
  | .frameHeader rsv len => [Config.sentinel, rsv, len]
  | .frameSentinel => [Config.sentinel]
  | .frameReserved b => [b]
  | .frameTerminator => [Config.terminator]
  | .telem rsv payload => frameBytes Config.cmdTelemetry rsv payload
  | .cmdTelemetry payload => Config.cmdTelemetry :: payload
  | .cmdUnrecognized cmd payload => cmd :: payload
  | .cmdLen0 => [0x00]
  | .cmdLen1 last => [0x01, last]
  | .telemPayload payload => payload
  | .telemOdometer b0 b1 b2 => [b0, b1, b2]
  | .telemTotalTime b0 b1 b2 => [b0, b1, b2]
  | .telemTripDistance b0 b1 => [b0, b1]
  | .telemTripTime b0 b1 b2 => [b0, b1, b2]
  | .telemRemainingRange b => [b]
  | .telemReserved12 b => [b]
  | .telemBatteryPercent b => [b]
  | .telemErrorFlags b => [b]
  | .errFlagController flags => [flags]
  | .errFlagDisplay flags => [flags]
  | .errFlagBattery flags => [flags]
  | .errFlagCurrentLimiting flags => [flags]
  | .errFlagIgnored flags => [flags]
  | .noFaults flags => [flags]
  | .evFrameAccepted cmd => [cmd]
  | .evTerminatorMismatch expected actual => [expected, actual]
  | .evChecksumMismatch expected actual => [expected, actual]
  | .evTelemetryDecoded record => recordBytes record
  | .evDecodeError reason => [BitVec.ofNat Config.byteBits reason.code]

/-- The message of an operation. -/
def encode (i : Instr) : List Byte := BitVec.ofNat Config.byteBits (rowOf i) :: operandBytes i

/-- The row a bare byte of the table stands for, and what follows the byte (zeros). The table's byte patterns belong to
different places of a frame and overlap; a bare word does not say its place, so the row with the most fixed bits is
taken: the whole-byte patterns, then `NOFAULTS` (mask 0x0F), then the lowest error-flag bit. Log entry 10. -/
def messageOfByte (b : Byte) : List Byte :=
  if b = Config.sentinel then [22, b]
  else if b = Config.terminator then [24, b]
  else if b = Config.cmdTelemetry then 26 :: b :: List.replicate Config.telemetryMinPayload 0
  else if b = 0x00 then [28, b]
  else if b = 0x01 then [29, b, 0]
  else if flagSet b definedFaults = false then [44, b]
  else if flagSet b Config.faultController then [39, b]
  else if flagSet b Config.faultDisplay then [40, b]
  else if flagSet b Config.faultBattery then [41, b]
  else [42, b]

/-- Sixteen bits are the width the table's `payload_offset` entry gives the `ERRFLAGS` rows: the first byte is read as
payload byte 14, by its lowest set flag. Log entry 10. -/
def messageOfFlagByte (b : Byte) : List Byte :=
  if flagSet b definedFaults = false then [44, b]
  else if flagSet b Config.faultController then [39, b]
  else if flagSet b Config.faultDisplay then [40, b]
  else if flagSet b Config.faultBattery then [41, b]
  else [42, b]

/-- The message that holds the instruction whose bits are `w`, numbered as the table numbers them: one byte, an
error-flag byte in sixteen bits, or the three header bytes of `FRAME.HEADER` as one number, first stream byte most
significant. The other rows have no bits in the table; a width of no row gives the empty message. Log entry 10. -/
def tableMessage (nbits w : Nat) : List Byte :=
  if nbits = Config.byteBits then messageOfByte (BitVec.ofNat Config.byteBits w)
  else if nbits = 2 * Config.byteBits then messageOfFlagByte (BitVec.ofNat Config.byteBits w)
  else if nbits = 3 * Config.byteBits ∨ nbits = 4 * Config.byteBits then
    [21, BitVec.ofNat Config.byteBits (w / 65536), BitVec.ofNat Config.byteBits (w / 256),
      BitVec.ofNat Config.byteBits w]
  else []

/-- The instruction the decoder reads from a word of the opcode table. -/
def decodeTableWord (nbits w : Nat) : Option Instr := (decode (tableMessage nbits w)).toOption

end Sys2Proof
end

