-- ==== Sys2Proof/Machine/State.lean ====
section
/-! DEFINITION. The state of the block (10_state.md), as plain data, its reset value, and the reasons a step can stop. -/

namespace Sys2Proof.Machine

/-- Where control is in the scan loop and the validator (10_state.md R10, 40_framescanner.md R53): the next step, or the
place where the scan stopped. -/
inductive Control where
  | idle
  | find
  | header
  | length
  | slice
  | term
  | extract
  | payload
  | calculate
  | compare
  | accept
  | resync
  | consume
  | stopped (w : WaitReason)
  deriving DecidableEq, Repr

/-- The ephemeral values of one transaction (R9's table): they belong to no state between transactions, where they are
`Work.idle`. `record` is a record being built field by field, never a finished one, which is handed to the sink and not
retained (R83). Log entry 3. -/
structure Work where
  ctrl       : Control
  startIndex : Option Nat
  len        : Byte
  frameEnd   : Nat
  frame      : List Byte
  cmd        : Byte
  cks        : Byte
  payload    : List Byte
  calculated : Byte
  verdict    : Option Verdict
  record     : Option TelemetryRecord
  deriving DecidableEq, Repr

/-- No transaction runs. -/
def Work.idle : Work :=
  { ctrl := .idle, startIndex := none, len := 0, frameEnd := 0, frame := [], cmd := 0, cks := 0, payload := [],
    calculated := 0, verdict := none, record := none }

/-- The machine. -/
structure State where
  /-- ByteBuffer, the spec's only persistent state (R7, R9): index 0 is the head. -/
  buf    : List Byte
  /-- The output list of the current or last transaction (R85), oldest first. -/
  events : List Event
  /-- The ephemeral values of the current transaction (R9). -/
  work   : Work
  /-- The operations the host has issued and the core has not begun, oldest first (log entry 2). -/
  inbox  : List (List Byte)
  deriving DecidableEq, Repr

/-- R12, R108: after reset the buffer is empty; there is nothing else to reset. -/
def State.reset : State := { buf := [], events := [], work := .idle, inbox := [] }

/-- Why the model stops. The block itself never faults (60_exceptions.md R102). -/
inductive Fault where
  /-- An append past a finite `BUF_CAP` (D2); raised by `appendWithin`. Safe: never raised with the default. -/
  | bufferOverflow
  /-- A read at an index outside a sequence, which R18 leaves without a byte; raised by the component steps when their
  operand is one no scan produces. Safe. -/
  | indexOutOfRange
  /-- A drop of more bytes than the buffer holds, which R17 leaves out; raised by the drops of SCAN.RESYNC and
  SCAN.CONSUME when their operand is one no scan produces. Safe. -/
  | dropOutOfRange
  deriving DecidableEq, Repr

/-- Why the model has no meaning for what it was given. No step of this model is refused. -/
inductive Refusal where
  /-- An operation without a meaning; only Dispatch answers so. Safe. -/
  | notModelled (mnemonic : String)
  deriving DecidableEq, Repr

end Sys2Proof.Machine
end

