-- ==== Sys2Proof/Machine/Ops.lean ====
section
/-! DEFINITION. The named operations over State: the primitives of 00_scope.md section 5 and the shared effects the
meanings are made of. REPORTING A CONDITION, the block's only "exception", is `report`: 60_exceptions.md R102 says it
appends events and nothing is saved, no mode changes and no handler runs; the return from it is `continueScan` (R103). -/

namespace Sys2Proof.Machine

/-- What an operation answers. -/
abbrev Result := Host.Outcome State Fault Refusal

/-- `buf <- v`. -/
def State.setBuf (s : State) (v : List Byte) : State := { s with buf := v }

/-- The ephemeral values become `w`. -/
def State.setWork (s : State) (w : Work) : State := { s with work := w }

/-- The output list becomes `es`. -/
def State.setEvents (s : State) (es : List Event) : State := { s with events := es }

/-- The waiting operations become `ms`. -/
def State.setInbox (s : State) (ms : List (List Byte)) : State := { s with inbox := ms }

/-- Control goes to `c`. -/
def State.goTo (s : State) (c : Control) : State := s.setWork { s.work with ctrl := c }

/-- `emit`, for a list of events in order (R102). -/
def State.emit (s : State) (es : List Event) : State := s.setEvents (s.events ++ es)

/-- Do the second operation on the state the first answers. -/
def andThen (r : Result) (k : State → Result) : Result :=
  match r with
  | .next s => k s
  | .fault f => .fault f
  | .refused f => .refused f

/-- Whether appending to a buffer stays within a capacity (D2). -/
def fits (cap : Option Nat) (buf chunk : List Byte) : Bool :=
  match cap with
  | none => true
  | some n => decide (buf.length + chunk.length ≤ n)

/-- `Append(c)` of R16, R46 under a capacity: past it a model fault, never a dropped byte (D2). -/
def appendWithin (cap : Option Nat) (chunk : List Byte) (s : State) : Result :=
  if fits cap s.buf chunk then .next (s.setBuf (s.buf ++ chunk)) else .fault .bufferOverflow

/-- `DropHead(k)` of R17; it requires `k ≤ |buf|`. -/
def dropHead (k : Nat) (s : State) : Result :=
  if k ≤ s.buf.length then .next (s.setBuf (s.buf.drop k)) else .fault .dropOutOfRange

/-- `continue` (R103): control returns to scan step 2. -/
def continueScan (s : State) : State := s.goTo .find

/-- `stop(w)`: the buffer stays as it is. -/
def stopScan (w : WaitReason) (s : State) : State := s.goTo (.stopped w)

/-- Which scan step an outcome selects: R51 for a bad terminator, R52 for the others. -/
def Verdict.next : Verdict → Control
  | .terminatorBad _ => .resync
  | .checksumBad _ _ => .consume
  | .valid _ _ => .consume

/-- R83: the decoder keeps nothing from one call to the next: no record, finished or begun. -/
def State.dropRecord (s : State) : State := s.setWork { s.work with record := none }

/-- One call of the decoder (R69): its event, which alone carries the record it builds; nothing is kept (R83). -/
def decodePayload (cmd : Byte) (payload : List Byte) (s : State) : State :=
  (s.emit (decodeEvents cmd payload)).dropRecord

/-- Whether an outcome calls the decoder (R63). -/
def Verdict.decodes : Verdict → Bool
  | .terminatorBad _ => false
  | .checksumBad _ _ => false
  | .valid cmd _ => cmd == Config.cmdTelemetry

/-- REPORTING (R94 to R98, R102): the outcome's events are appended, the outcome is kept for the scanner, and control
goes to the drop it selects. Where the decoder is called, it keeps nothing (R83). -/
def report (v : Verdict) (s : State) : State :=
  (s.emit v.events).setWork
    { s.work with verdict := some v, ctrl := v.next, record := if v.decodes then none else s.work.record }

/-- Steps (b) to (d) as the ephemeral values they leave (R59, R60, R61); a bad terminator leaves none of them. -/
def Work.examined (w : Work) (frame : List Byte) : Verdict → Work
  | .terminatorBad _ => w
  | .checksumBad calculated cks =>
    { w with cmd := (byteAt frame Config.cmdOffset).getD 0, cks := cks, payload := payloadOf frame, calculated := calculated }
  | .valid cmd payload =>
    { w with cmd := cmd, cks := (byteAt frame (frame.length - 2)).getD 0, payload := payload,
             calculated := checksumOf ((byteAt frame Config.lenOffset).getD 0) cmd payload }

/-- The whole validator (R57). -/
def validateFrame (frame : List Byte) (s : State) : Result :=
  match classify frame with
  | some v => .next (report v (s.setWork (s.work.examined frame v)))
  | none => .fault .indexOutOfRange

/-- One transaction of R85 under a capacity: append, scan to the stop, and answer with the events; no ephemeral value
survives it (R9). -/
def ingestWithin (cap : Option Nat) (chunk : List Byte) (s : State) : Result :=
  if fits cap s.buf chunk then
    .next { s with buf := (scan (s.buf ++ chunk)).2, events := (scan (s.buf ++ chunk)).1, work := .idle }
  else .fault .bufferOverflow

/-- Bytes arrive from the wire: one transaction (R85, R93). -/
def receive (chunk : List Byte) (s : State) : Result := ingestWithin Config.bufCap chunk s

/-- The record being built; where none is begun, a new one (log entry 3). -/
def Work.building (w : Work) : TelemetryRecord := w.record.getD .blank

/-- The record being built becomes `r`. -/
def setRecord (r : TelemetryRecord) (s : State) : Result := .next (s.setWork { s.work with record := some r })

/-- One entry of R80's list: the record being built has the name exactly when its bit is set. -/
def setFault (flags mask : Byte) (name : FaultName) (s : State) : Result :=
  setRecord { s.work.building with faults := withFault (flagSet flags mask) name s.work.building.faults } s

end Sys2Proof.Machine
end

