-- ==== Sys2Proof/Machine/Commands.lean ====
section
/-! DEFINITION. CMDBYTE: what the byte at frame offset 2 decides (30_encoding.md R36, R37): the validator's outcome for
a candidate whose other bytes the row supposes. Log entry 7. -/

namespace Sys2Proof.Machine

/-- CMD.TELEMETRY, R37, R69: a valid frame of the telemetry command. -/
def execCmdTelemetry (payload : List Byte) (s : State) : Result :=
  .next (report (.valid Config.cmdTelemetry payload) s)

/-- CMD.UNRECOGNIZED, R37, R63, R98: a valid frame of another command. -/
def execCmdUnrecognized (cmd : Byte) (payload : List Byte) (s : State) : Result := .next (report (.valid cmd payload) s)

/-- CMD.LEN0, R36: the candidate's last byte is the length byte itself, `0x00`. -/
def execCmdLen0 (s : State) : Result := .next (report (.terminatorBad 0x00) s)

/-- CMD.LEN1, R36: `last` is frame offset 3; the declared checksum is the length byte, `0x01`. -/
def execCmdLen1 (last : Byte) (s : State) : Result :=
  if last ≠ Config.terminator then .next (report (.terminatorBad last) s)
  else .next (report (.checksumBad (checksumOf 0x01 0x01 []) 0x01) s)

end Sys2Proof.Machine
end

