-- ==== Sys2Proof/Machine/ErrFlags.lean ====
section
/-! DEFINITION. ERRFLAGS: the bits of payload byte 14 (30_encoding.md R40; 43_telemetrydecoder.md R80, R81). -/

namespace Sys2Proof.Machine

/-- ERRFLAG.CONTROLLER, R80. -/
def execErrFlagController (flags : Byte) (s : State) : Result :=
  setFault flags Config.faultController .controllerFault s

/-- ERRFLAG.DISPLAY, R80. -/
def execErrFlagDisplay (flags : Byte) (s : State) : Result :=
  setFault flags Config.faultDisplay .displayFault s

/-- ERRFLAG.BATTERY, R80. -/
def execErrFlagBattery (flags : Byte) (s : State) : Result :=
  setFault flags Config.faultBattery .batteryFault s

/-- ERRFLAG.CURRENT_LIMITING, R80. -/
def execErrFlagCurrentLimiting (flags : Byte) (s : State) : Result :=
  setFault flags Config.faultCurrentLimit .currentLimiting s

/-- ERRFLAG.IGNORED, R40, R80: bits 4 to 7 contribute no descriptor. -/
def execErrFlagIgnored (_flags : Byte) (s : State) : Result := .next s

/-- NOFAULTS, R81. -/
def execNoFaults (flags : Byte) (s : State) : Result :=
  setRecord { s.work.building with noFaults := noFaultsOf flags } s

end Sys2Proof.Machine
end

