-- ==== Sys2Proof/Machine/Events.lean ====
section
/-! DEFINITION. EVENT: `emit` of each of the five events (30_encoding.md R43, 60_exceptions.md R102). -/

namespace Sys2Proof.Machine

/-- EV.FrameAccepted, R63. -/
def execEvFrameAccepted (cmd : Byte) (s : State) : Result := .next (s.emit [.frameAccepted cmd])

/-- EV.TerminatorMismatch, R58. -/
def execEvTerminatorMismatch (expected actual : Byte) (s : State) : Result :=
  .next (s.emit [.terminatorMismatch expected actual])

/-- EV.ChecksumMismatch, R62. -/
def execEvChecksumMismatch (expected actual : Byte) (s : State) : Result :=
  .next (s.emit [.checksumMismatch expected actual])

/-- EV.TelemetryDecoded, R69: the record is handed to the sink, and the core retains none (R83). -/
def execEvTelemetryDecoded (record : TelemetryRecord) (s : State) : Result :=
  .next (s.emit [.telemetryDecoded record]).dropRecord

/-- EV.DecodeError, R71: no partial record is held behind it. -/
def execEvDecodeError (reason : DecodeReason) (s : State) : Result :=
  .next (s.emit [.decodeError reason]).dropRecord

end Sys2Proof.Machine
end

