-- ==== Sys2Proof/Machine/Frames.lean ====
section
/-! DEFINITION. FRAME and FRAMEBYTE: bytes of a frame on the wire (30_encoding.md section 1). They are what the sender
sends; what the core does with them is receive them, in one transaction (44_core_interface.md R93). Log entry 6. -/

namespace Sys2Proof.Machine

/-- FRAME, R28, R44: the bytes of a whole frame arrive. -/
def execFrame (len rsv : Byte) (payload : List Byte) (s : State) : Result := receive (frameBytes len rsv payload) s

/-- FRAME.HEADER, R28, R49: the three header bytes arrive. -/
def execFrameHeader (rsv len : Byte) (s : State) : Result := receive [Config.sentinel, rsv, len] s

/-- FRAME.SENTINEL, R29: the sentinel byte arrives. -/
def execFrameSentinel (s : State) : Result := receive [Config.sentinel] s

/-- FRAME.RESERVED, R30: the reserved byte arrives; any value. -/
def execFrameReserved (b : Byte) (s : State) : Result := receive [b] s

/-- FRAME.TERMINATOR, R34: the terminator byte arrives. -/
def execFrameTerminator (s : State) : Result := receive [Config.terminator] s

/-- TELEM, R44: the bytes of a whole telemetry frame arrive. -/
def execTelem (rsv : Byte) (payload : List Byte) (s : State) : Result :=
  receive (frameBytes Config.cmdTelemetry rsv payload) s

end Sys2Proof.Machine
end

