-- ==== Sys2Proof/Machine/Functions.lean ====
section
/-! DEFINITION. FUNCTION: ChecksumEngine (42_checksumengine.md) and TelemetryDecoder (43_telemetrydecoder.md). -/

namespace Sys2Proof.Machine

/-- CHECKSUM, R65: the result is the calculated checksum; nothing else changes (R66). -/
def execChecksum (len cmd : Byte) (payload : List Byte) (s : State) : Result :=
  .next (s.setWork { s.work with calculated := checksumOf len cmd payload })

/-- DECODE, R69. -/
def execDecode (cmd : Byte) (payload : List Byte) (s : State) : Result := .next (decodePayload cmd payload s)

/-- DECODE.OTHER, R70: no decoder variant exists for another command, so nothing is returned, nothing emitted and no
record is held (R83); for command 0x11 the branch is not taken, and the call begins without a record all the same. -/
def execDecodeOther (_cmd : Byte) (_payload : List Byte) (s : State) : Result := .next s.dropRecord

/-- DECODE.GUARD, R71: the insufficient-length guard alone; no record and no field of one is held behind it, and where it
does not fire the decoder goes on to construct its record afresh (R83). -/
def execDecodeGuard (cmd : Byte) (payload : List Byte) (s : State) : Result :=
  if cmd = Config.cmdTelemetry ∧ payload.length < Config.telemetryMinPayload then
    .next (s.emit [.decodeError .insufficientPayload]).dropRecord
  else .next s.dropRecord

end Sys2Proof.Machine
end

