-- ==== Sys2Proof/Machine/HostOps.lean ====
section
/-! DEFINITION. HOSTOP: the two host operations (44_core_interface.md). -/

namespace Sys2Proof.Machine

/-- INGEST, R85: one whole transaction. -/
def execIngest (chunk : List Byte) (s : State) : Result := receive chunk s

/-- RESET, R88: `buf <- []`, no events; the block is in its power-on state, the host's later operations still wait. -/
def execReset (s : State) : Result := .next (State.reset.setInbox s.inbox)

end Sys2Proof.Machine
end

