-- ==== Sys2Proof/Machine/Payload.lean ====
section
/-! DEFINITION. PAYLOAD11: the payload of command 0x11 and its fields (30_encoding.md R38, R39; 43_telemetrydecoder.md
R72 to R79). Each field row gives the record being built its field. -/

namespace Sys2Proof.Machine

/-- TELEM.PAYLOAD, R38, R39: all fields at once. -/
def execTelemPayload (payload : List Byte) (s : State) : Result :=
  match recordOf payload with
  | some r => setRecord r s
  | none => .fault .indexOutOfRange

/-- TELEM.odometer, R72. -/
def execTelemOdometer (b0 b1 b2 : Byte) (s : State) : Result :=
  setRecord { s.work.building with odometerRaw := le24 b0 b1 b2 } s

/-- TELEM.totalTime, R73. -/
def execTelemTotalTime (b0 b1 b2 : Byte) (s : State) : Result :=
  setRecord { s.work.building with totalTime := le24 b0 b1 b2 } s

/-- TELEM.tripDistance, R74. -/
def execTelemTripDistance (b0 b1 : Byte) (s : State) : Result :=
  setRecord { s.work.building with tripDistanceRaw := le16 b0 b1 } s

/-- TELEM.tripTime, R75. -/
def execTelemTripTime (b0 b1 b2 : Byte) (s : State) : Result :=
  setRecord { s.work.building with tripTime := le24 b0 b1 b2 } s

/-- TELEM.remainingRange, R76. -/
def execTelemRemainingRange (b : Byte) (s : State) : Result :=
  setRecord { s.work.building with remainingRange := b } s

/-- TELEM.reserved12, R77: not read by the decoder, in no field of the record. -/
def execTelemReserved12 (_b : Byte) (s : State) : Result := .next s

/-- TELEM.batteryPercent, R78: no range is enforced. -/
def execTelemBatteryPercent (b : Byte) (s : State) : Result :=
  setRecord { s.work.building with batteryPercent := b } s

/-- TELEM.errorFlags, R79: all eight bits are kept. -/
def execTelemErrorFlags (b : Byte) (s : State) : Result :=
  setRecord { s.work.building with errorFlags := b } s

end Sys2Proof.Machine
end

