-- ==== Sys2Proof/Machine/ScanSteps.lean ====
section
/-! DEFINITION. SCANSTEP: FrameScanner, steps 1 to 7 (40_framescanner.md). -/

namespace Sys2Proof.Machine

/-- SCAN.APPEND, R46. -/
def execScanAppend (chunk : List Byte) (s : State) : Result :=
  andThen (appendWithin Config.bufCap chunk s) fun t => .next (continueScan t)

/-- SCAN.FIND, R47. -/
def execScanFind (s : State) : Result :=
  match findFirst Config.sentinel s.buf with
  | none => .next (stopScan .sentinel (s.setWork { s.work with startIndex := none }))
  | some i => .next ((s.setWork { s.work with startIndex := some i }).goTo .header)

/-- SCAN.HEADER, R48. -/
def execScanHeader (startIndex : Nat) (s : State) : Result :=
  if headerShort s.buf startIndex then .next (stopScan .header s) else .next (s.goTo .length)

/-- SCAN.LENGTH, R49. -/
def execScanLength (startIndex : Nat) (s : State) : Result :=
  match byteAt s.buf (startIndex + Config.lenOffset) with
  | none => .fault .indexOutOfRange
  | some len =>
    let t := s.setWork { s.work with len := len, frameEnd := frameEndOf startIndex len }
    if s.buf.length < frameEndOf startIndex len then .next (stopScan .body t) else .next (t.goTo .slice)

/-- SCAN.SLICE, R50: the candidate is copied out and validated. -/
def execScanSlice (startIndex frameEnd : Nat) (s : State) : Result :=
  validateFrame (slice s.buf startIndex frameEnd) (s.setWork { s.work with frame := slice s.buf startIndex frameEnd })

/-- SCAN.RESYNC, R51: the prefix and the one sentinel byte are dropped. -/
def execScanResync (startIndex : Nat) (s : State) : Result :=
  andThen (dropHead (startIndex + 1) s) fun t => .next (continueScan t)

/-- SCAN.CONSUME, R52: the prefix and the whole candidate are dropped. -/
def execScanConsume (frameEnd : Nat) (s : State) : Result :=
  andThen (dropHead frameEnd s) fun t => .next (continueScan t)

end Sys2Proof.Machine
end

