-- ==== Sys2Proof/Machine/ValSteps.lean ====
section
/-! DEFINITION. VALSTEP: FrameValidator, steps (a) to (f) (41_framevalidator.md). -/

namespace Sys2Proof.Machine

/-- VALIDATE, R57. -/
def execValidate (frame : List Byte) (s : State) : Result := validateFrame frame s

/-- VAL.TERM, R58. -/
def execValTerm (frame : List Byte) (s : State) : Result :=
  match byteAt frame (frame.length - 1) with
  | none => .fault .indexOutOfRange
  | some last =>
    if last ≠ Config.terminator then .next (report (.terminatorBad last) s) else .next (s.goTo .extract)

/-- VAL.EXTRACT, R59. -/
def execValExtract (frame : List Byte) (s : State) : Result :=
  match byteAt frame Config.cmdOffset, byteAt frame (frame.length - 2) with
  | some cmd, some cks => .next ((s.setWork { s.work with cmd := cmd, cks := cks }).goTo .payload)
  | _, _ => .fault .indexOutOfRange

/-- VAL.PAYLOAD, R60. -/
def execValPayload (frame : List Byte) (s : State) : Result :=
  .next ((s.setWork { s.work with payload := payloadOf frame }).goTo .calculate)

/-- VAL.CALC, R61. -/
def execValCalc (len cmd : Byte) (payload : List Byte) (s : State) : Result :=
  .next ((s.setWork { s.work with calculated := checksumOf len cmd payload }).goTo .compare)

/-- VAL.MISMATCH, R62. -/
def execValMismatch (calculated cks : Byte) (s : State) : Result :=
  if calculated ≠ cks then .next (report (.checksumBad calculated cks) s) else .next (s.goTo .accept)

/-- VAL.ACCEPT, R63. -/
def execValAccept (cmd : Byte) (payload : List Byte) (s : State) : Result := .next (report (.valid cmd payload) s)

end Sys2Proof.Machine
end

