-- ==== Sys2Proof/Machine/Dispatch.lean ====
section
/-! DEFINITION. The operation-to-meaning map: one arm per row of spec/opcode_table.json, in the table's order. -/

namespace Sys2Proof.Machine

/-- What each operation does. -/
def exec (i : Instr) (s : State) : Host.Outcome State Fault Refusal :=
  match i with
  | .ingest chunk => Sys2Proof.Machine.execIngest chunk s
  | .reset => Sys2Proof.Machine.execReset s
  | .scanAppend chunk => Sys2Proof.Machine.execScanAppend chunk s
  | .scanFind => Sys2Proof.Machine.execScanFind s
  | .scanHeader startIndex => Sys2Proof.Machine.execScanHeader startIndex s
  | .scanLength startIndex => Sys2Proof.Machine.execScanLength startIndex s
  | .scanSlice startIndex frameEnd => Sys2Proof.Machine.execScanSlice startIndex frameEnd s
  | .scanResync startIndex => Sys2Proof.Machine.execScanResync startIndex s
  | .scanConsume frameEnd => Sys2Proof.Machine.execScanConsume frameEnd s
  | .validate frame => Sys2Proof.Machine.execValidate frame s
  | .valTerm frame => Sys2Proof.Machine.execValTerm frame s
  | .valExtract frame => Sys2Proof.Machine.execValExtract frame s
  | .valPayload frame => Sys2Proof.Machine.execValPayload frame s
  | .valCalc len cmd payload => Sys2Proof.Machine.execValCalc len cmd payload s
  | .valMismatch calculated cks => Sys2Proof.Machine.execValMismatch calculated cks s
  | .valAccept cmd payload => Sys2Proof.Machine.execValAccept cmd payload s
  | .checksum len cmd payload => Sys2Proof.Machine.execChecksum len cmd payload s
  | .decode cmd payload => Sys2Proof.Machine.execDecode cmd payload s
  | .decodeOther cmd payload => Sys2Proof.Machine.execDecodeOther cmd payload s
  | .decodeGuard cmd payload => Sys2Proof.Machine.execDecodeGuard cmd payload s
  | .frame len rsv payload => Sys2Proof.Machine.execFrame len rsv payload s
  | .frameHeader rsv len => Sys2Proof.Machine.execFrameHeader rsv len s
  | .frameSentinel => Sys2Proof.Machine.execFrameSentinel s
  | .frameReserved b => Sys2Proof.Machine.execFrameReserved b s
  | .frameTerminator => Sys2Proof.Machine.execFrameTerminator s
  | .telem rsv payload => Sys2Proof.Machine.execTelem rsv payload s
  | .cmdTelemetry payload => Sys2Proof.Machine.execCmdTelemetry payload s
  | .cmdUnrecognized cmd payload => Sys2Proof.Machine.execCmdUnrecognized cmd payload s
  | .cmdLen0 => Sys2Proof.Machine.execCmdLen0 s
  | .cmdLen1 last => Sys2Proof.Machine.execCmdLen1 last s
  | .telemPayload payload => Sys2Proof.Machine.execTelemPayload payload s
  | .telemOdometer b0 b1 b2 => Sys2Proof.Machine.execTelemOdometer b0 b1 b2 s
  | .telemTotalTime b0 b1 b2 => Sys2Proof.Machine.execTelemTotalTime b0 b1 b2 s
  | .telemTripDistance b0 b1 => Sys2Proof.Machine.execTelemTripDistance b0 b1 s
  | .telemTripTime b0 b1 b2 => Sys2Proof.Machine.execTelemTripTime b0 b1 b2 s
  | .telemRemainingRange b => Sys2Proof.Machine.execTelemRemainingRange b s
  | .telemReserved12 b => Sys2Proof.Machine.execTelemReserved12 b s
  | .telemBatteryPercent b => Sys2Proof.Machine.execTelemBatteryPercent b s
  | .telemErrorFlags b => Sys2Proof.Machine.execTelemErrorFlags b s
  | .errFlagController flags => Sys2Proof.Machine.execErrFlagController flags s
  | .errFlagDisplay flags => Sys2Proof.Machine.execErrFlagDisplay flags s
  | .errFlagBattery flags => Sys2Proof.Machine.execErrFlagBattery flags s
  | .errFlagCurrentLimiting flags => Sys2Proof.Machine.execErrFlagCurrentLimiting flags s
  | .errFlagIgnored flags => Sys2Proof.Machine.execErrFlagIgnored flags s
  | .noFaults flags => Sys2Proof.Machine.execNoFaults flags s
  | .evFrameAccepted cmd => Sys2Proof.Machine.execEvFrameAccepted cmd s
  | .evTerminatorMismatch expected actual => Sys2Proof.Machine.execEvTerminatorMismatch expected actual s
  | .evChecksumMismatch expected actual => Sys2Proof.Machine.execEvChecksumMismatch expected actual s
  | .evTelemetryDecoded record => Sys2Proof.Machine.execEvTelemetryDecoded record s
  | .evDecodeError reason => Sys2Proof.Machine.execEvDecodeError reason s

end Sys2Proof.Machine
end

