-- ==== Sys2Proof/Machine/Fetch.lean ====
section
/-! DEFINITION. Taking the next operation from the inbox. The block fetches no instructions (20_memory.md R27): the host
issues operations and the core performs them one at a time (R24, R110). Log entry 2. -/

namespace Sys2Proof.Machine

/-- The oldest waiting message and the state without it; none when the core is idle (R89, R107). -/
def fetch (s : State) : Option (List Byte × State) :=
  match s.inbox with
  | [] => none
  | m :: rest => some (m, s.setInbox rest)

/-- A message that holds no operation, with the state it was taken from: INGEST and RESET are the complete set of what
a host can issue (R90) and the block acts only when it is called (R100), so it is not called here: it keeps its buffer
and produces no event (R89), and nothing is raised to the caller (R102). Log entry 18. -/
def passOver (_why : Reject) (s : State) : Result := .next s

/-- Put a message where `fetch` takes the next one from. -/
def placeNext (m : List Byte) (s : State) : State := s.setInbox (m :: s.inbox)

end Sys2Proof.Machine
end

