-- ==== Sys2Proof/Machine/Step.lean ====
section
/-! DEFINITION. One step: one whole operation (92_eei_decisions.md D1), taken from the inbox, decoded and performed; an
idle core keeps its state (R89). -/

namespace Sys2Proof.Machine

/-- One step. -/
def step (s : State) : Host.Outcome State Fault Refusal :=
  match fetch s with
  | none => .next s
  | some (m, t) =>
    match decode m with
    | .ok i => exec i t
    | .error why => passOver why t

/-- The instruction whose bits are `w` waits as the next operation. -/
def State.withFetchWord (s : State) (nbits w : Nat) : State := placeNext (tableMessage nbits w) s

end Sys2Proof.Machine
end

