-- ==== Sys2Proof/Machine/Control.lean ====
section
/-! DEFINITION. Control flow inside a transaction (40_framescanner.md R53): which internal step the position of control
selects, with its operands taken from the ephemeral values, and running such steps one after another. INGEST itself is
`ingestWithin` of Ops; these definitions say what it is made of. -/

namespace Sys2Proof.Machine

/-- The internal step control selects; none between transactions and where the scan has stopped. -/
def nextOperation (w : Work) : Option Instr :=
  match w.ctrl with
  | .idle => none
  | .find => some .scanFind
  | .header => w.startIndex.map fun s => .scanHeader s
  | .length => w.startIndex.map fun s => .scanLength s
  | .slice => w.startIndex.map fun s => .scanSlice s w.frameEnd
  | .term => some (.valTerm w.frame)
  | .extract => some (.valExtract w.frame)
  | .payload => some (.valPayload w.frame)
  | .calculate => (byteAt w.frame Config.lenOffset).map fun len => .valCalc len w.cmd w.payload
  | .compare => some (.valMismatch w.calculated w.cks)
  | .accept => some (.valAccept w.cmd w.payload)
  | .resync => w.startIndex.map fun s => .scanResync s
  | .consume => some (.scanConsume w.frameEnd)
  | .stopped _ => none

/-- At most `fuel` internal steps, as long as control is where `inside` says. -/
def runSteps (inside : Control → Bool) : Nat → State → Result
  | 0, s => .next s
  | fuel + 1, s =>
    if inside s.work.ctrl then
      match nextOperation s.work with
      | none => .next s
      | some i => andThen (exec i s) (runSteps inside fuel)
    else .next s

/-- Control is in the scan loop (R46 to R52). -/
def inScanner : Control → Bool
  | .find | .header | .length | .slice | .resync | .consume => true
  | _ => false

/-- Control is in the validator (R58 to R63). -/
def inValidator : Control → Bool
  | .term | .extract | .payload | .calculate | .compare | .accept => true
  | _ => false

end Sys2Proof.Machine
end

