-- ==== Sys2Proof/Safety.lean ====
section
/-! DEFINITION. What the claims speak about: quiescence (10_state.md R14), host transactions (44_core_interface.md), and
feeding a list of chunks. -/

namespace Sys2Proof.Safety

open Sys2Proof.Machine

/-- Index `s` holds the first sentinel of a buffer. -/
def FirstSentinel (buf : List Byte) (s : Nat) : Prop :=
  buf[s]? = some Config.sentinel ∧ ∀ j, j < s → buf[j]? ≠ some Config.sentinel

/-- R14: the three forms of a buffer between transactions. -/
def Quiescent (buf : List Byte) : Prop :=
  Config.sentinel ∉ buf ∨
  (∃ s, FirstSentinel buf s ∧ buf.length < s + 5) ∨
  (∃ s len, FirstSentinel buf s ∧ s + 5 ≤ buf.length ∧ buf[s + 2]? = some len ∧ buf.length < s + len.toNat + 3)

/-- An operation that is one whole transaction of the host: INGEST, RESET, or bytes on the wire (R85, R88, R44, R93). -/
def isTransaction : Instr → Bool
  | .ingest _ => true
  | .reset => true
  | .scanAppend _ => false
  | .scanFind => false
  | .scanHeader _ => false
  | .scanLength _ => false
  | .scanSlice _ _ => false
  | .scanResync _ => false
  | .scanConsume _ => false
  | .validate _ => false
  | .valTerm _ => false
  | .valExtract _ => false
  | .valPayload _ => false
  | .valCalc _ _ _ => false
  | .valMismatch _ _ => false
  | .valAccept _ _ => false
  | .checksum _ _ _ => false
  | .decode _ _ => false
  | .decodeOther _ _ => false
  | .decodeGuard _ _ => false
  | .frame _ _ _ => true
  | .frameHeader _ _ => true
  | .frameSentinel => true
  | .frameReserved _ => true
  | .frameTerminator => true
  | .telem _ _ => true
  | .cmdTelemetry _ => false
  | .cmdUnrecognized _ _ => false
  | .cmdLen0 => false
  | .cmdLen1 _ => false
  | .telemPayload _ => false
  | .telemOdometer _ _ _ => false
  | .telemTotalTime _ _ _ => false
  | .telemTripDistance _ _ => false
  | .telemTripTime _ _ _ => false
  | .telemRemainingRange _ => false
  | .telemReserved12 _ => false
  | .telemBatteryPercent _ => false
  | .telemErrorFlags _ => false
  | .errFlagController _ => false
  | .errFlagDisplay _ => false
  | .errFlagBattery _ => false
  | .errFlagCurrentLimiting _ => false
  | .errFlagIgnored _ => false
  | .noFaults _ => false
  | .evFrameAccepted _ => false
  | .evTerminatorMismatch _ _ => false
  | .evChecksumMismatch _ _ => false
  | .evTelemetryDecoded _ => false
  | .evDecodeError _ => false

/-- The host issues transactions only (R90, R110). -/
def HostOnly (inbox : List (List Byte)) : Prop := ∀ m ∈ inbox, ∀ i, decode m = .ok i → isTransaction i = true

/-- Between transactions: the buffer is quiescent and no ephemeral value lives (R9, R14). -/
def AtRest (s : State) : Prop := Quiescent s.buf ∧ s.work = .idle

/-- Feeding chunks one transaction after another: all events in order, and the last state. -/
def feed : List (List Byte) → State → List Event × State
  | [], s => ([], s)
  | chunk :: rest, s =>
    match exec (.ingest chunk) s with
    | .next t => (t.events ++ (feed rest t).1, (feed rest t).2)
    | _ => ([], s)

/-- The value of payload byte `i`, in the arithmetic of 00_scope.md section 5. -/
def payloadNat (p : List Byte) (i : Nat) : Nat := (p.getD i 0).toNat

/-- R80 by bit numbers: the names of the set bits 0 to 3, in ascending order. -/
def faultsByBits (flags : Byte) : List FaultName :=
  (if flags.getLsbD 0 then [.controllerFault] else []) ++ (if flags.getLsbD 1 then [.displayFault] else []) ++
    (if flags.getLsbD 2 then [.batteryFault] else []) ++ (if flags.getLsbD 3 then [.currentLimiting] else [])

/-- R72 to R81 in unbounded arithmetic: what the record of a payload of fifteen bytes or more holds; the two "÷10"
fields both as the raw count and as its exact tenth. -/
structure RecordReads (r : TelemetryRecord) (p : List Byte) : Prop where
  odometer       : r.odometerRaw.toNat = payloadNat p 0 + 256 * payloadNat p 1 + 65536 * payloadNat p 2
  totalTime      : r.totalTime.toNat = payloadNat p 3 + 256 * payloadNat p 4 + 65536 * payloadNat p 5
  tripDistance   : r.tripDistanceRaw.toNat = payloadNat p 6 + 256 * payloadNat p 7
  odometerTenths : r.odometer = ((payloadNat p 0 + 256 * payloadNat p 1 + 65536 * payloadNat p 2 : Nat) : Rat) / 10
  tripTenths     : r.tripDistance = ((payloadNat p 6 + 256 * payloadNat p 7 : Nat) : Rat) / 10
  tripTime       : r.tripTime.toNat = payloadNat p 8 + 256 * payloadNat p 9 + 65536 * payloadNat p 10
  remainingRange : r.remainingRange.toNat = payloadNat p 11
  batteryPercent : r.batteryPercent.toNat = payloadNat p 13
  errorFlags     : r.errorFlags.toNat = payloadNat p 14
  faults         : r.faults = faultsByBits r.errorFlags
  noFaults       : r.noFaults = decide (payloadNat p 14 % 16 = 0)

/-- R50, R28: `cand` is a complete candidate with length byte `len`: `len + 3` bytes, the sentinel first. -/
structure Candidate (cand : List Byte) (len : Byte) : Prop where
  size     : cand.length = len.toNat + 3
  sentinel : cand[0]? = some 0xFB
  length   : cand[2]? = some len

/-- R61 with `cmd = L`, in unbounded arithmetic: the checksum a candidate should carry. -/
def dueChecksum (cand : List Byte) (len : Byte) : Nat :=
  (len.toNat + len.toNat + (((cand.take (len.toNat + 1)).drop 3).map BitVec.toNat).sum) % 256

/-- The bytes of a frame whose checksum is right (R28, R33), written without the model's `frameBytes`. -/
def goodFrame (len rsv : Byte) (payload : List Byte) : List Byte :=
  [0xFB, rsv, len] ++ payload ++
    [BitVec.ofNat 8 (len.toNat + len.toNat + (payload.map BitVec.toNat).sum), 0xFE]

/-- The operations that may change the buffer: transactions, and the scanner's append and drops (R46, R51, R52). -/
def movesBuffer : Instr → Bool
  | .ingest _ => true
  | .reset => true
  | .scanAppend _ => true
  | .scanFind => false
  | .scanHeader _ => false
  | .scanLength _ => false
  | .scanSlice _ _ => false
  | .scanResync _ => true
  | .scanConsume _ => true
  | .validate _ => false
  | .valTerm _ => false
  | .valExtract _ => false
  | .valPayload _ => false
  | .valCalc _ _ _ => false
  | .valMismatch _ _ => false
  | .valAccept _ _ => false
  | .checksum _ _ _ => false
  | .decode _ _ => false
  | .decodeOther _ _ => false
  | .decodeGuard _ _ => false
  | .frame _ _ _ => true
  | .frameHeader _ _ => true
  | .frameSentinel => true
  | .frameReserved _ => true
  | .frameTerminator => true
  | .telem _ _ => true
  | .cmdTelemetry _ => false
  | .cmdUnrecognized _ _ => false
  | .cmdLen0 => false
  | .cmdLen1 _ => false
  | .telemPayload _ => false
  | .telemOdometer _ _ _ => false
  | .telemTotalTime _ _ _ => false
  | .telemTripDistance _ _ => false
  | .telemTripTime _ _ _ => false
  | .telemRemainingRange _ => false
  | .telemReserved12 _ => false
  | .telemBatteryPercent _ => false
  | .telemErrorFlags _ => false
  | .errFlagController _ => false
  | .errFlagDisplay _ => false
  | .errFlagBattery _ => false
  | .errFlagCurrentLimiting _ => false
  | .errFlagIgnored _ => false
  | .noFaults _ => false
  | .evFrameAccepted _ => false
  | .evTerminatorMismatch _ _ => false
  | .evChecksumMismatch _ _ => false
  | .evTelemetryDecoded _ => false
  | .evDecodeError _ => false

end Sys2Proof.Safety
end

