-- ==== Sys2Proof/Certificates/Slice0/Obligations.lean ====
section
/-! DEFINITION. The statements for the provers. Constants are written as the numbers of 00_scope.md R5 and sums in
unbounded arithmetic, so that a statement does not repeat the model's own definitions. A next state written as an
update of `s` is the instruction's whole frame: every field not named is unchanged. -/

open Sys2Proof Sys2Proof.Machine Sys2Proof.Safety

/-! ### Encoding and stepping -/

/-- Decoding the message of any operation a row admits gives the operation back (message form: log entry 5; the
operands a row admits: log entry 16). -/
def Obligations.DecodeOfEncode : Prop :=
  ∀ i : Instr, i.wf = true → decode (encode i) = .ok i

/-- Every operation the decoder answers is one its row admits. Which operands a row admits is the model's choice (log
entry 16), the message form too (log entry 5). -/
def Obligations.DecodedOperationsAreWellFormed : Prop :=
  ∀ (m : List Byte) (i : Instr), decode m = .ok i → i.wf = true

/-- Words written from the encodings of 30_encoding.md decode to what they stand for (leading byte: log entry 5). -/
def Obligations.SpecEncodedWordsDecode : Prop :=
  decode [22, 0xFB] = .ok .frameSentinel ∧
  decode [24, 0xFE] = .ok .frameTerminator ∧
  decode [21, 0xFB, 0x00, 0x11] = .ok (.frameHeader 0x00 0x11) ∧
  decode [20, 0xFB, 0x00, 0x04, 0x10, 0x20, 0x38, 0xFE] = .ok (.frame 0x04 0x00 [0x10, 0x20]) ∧
  decode [31, 0x39, 0x30, 0x00] = .ok (.telemOdometer 0x39 0x30 0x00) ∧
  decode [41, 0x05] = .ok (.errFlagBattery 0x05) ∧
  decode [45, 0x02] = .ok (.evFrameAccepted 0x02)

/-- The match values of the table's pattern rows decode to the rows (choice of row among overlapping patterns: log
entry 10). -/
def Obligations.TableWordsDecode : Prop :=
  decodeTableWord 24 0xFB0011 = some (.frameHeader 0x00 0x11) ∧
  decodeTableWord 8 0xFB = some .frameSentinel ∧
  decodeTableWord 8 0xFE = some .frameTerminator ∧
  decodeTableWord 8 0x11 = some (.cmdTelemetry (List.replicate 15 0)) ∧
  decodeTableWord 8 0x00 = some .cmdLen0 ∧
  decodeTableWord 8 0x01 = some (.cmdLen1 0) ∧
  decodeTableWord 16 0x01 = some (.errFlagController 0x01) ∧
  decodeTableWord 16 0x02 = some (.errFlagDisplay 0x02) ∧
  decodeTableWord 16 0x04 = some (.errFlagBattery 0x04) ∧
  decodeTableWord 16 0x08 = some (.errFlagCurrentLimiting 0x08) ∧
  decodeTableWord 16 0x00 = some (.noFaults 0x00)

/-- A step performs the oldest waiting operation, whole, and takes its message from the inbox (log entry 2). -/
def Obligations.StepRunsDecodedOperation : Prop :=
  ∀ (s : State) (m : List Byte) (rest : List (List Byte)) (i : Instr),
    s.inbox = m :: rest → decode m = .ok i → step s = exec i { s with inbox := rest }

/-- 44_core_interface.md R89 (that the core waits in an inbox is log entry 2): with no operation waiting the core
keeps its state; nothing expires and no event is produced. A message that holds no operation is taken from the inbox and
does nothing else, whatever it is (log entry 18). -/
def Obligations.StepWithoutOperation : Prop :=
  (∀ s : State, s.inbox = [] → step s = .next s) ∧
  (∀ (s : State) (m : List Byte) (rest : List (List Byte)) (why : Reject),
    s.inbox = m :: rest → decode m = .error why → step s = .next { s with inbox := rest })

/-! ### Reset -/

/-- 10_state.md section 7 (R12; the spec marks power-on = reset its own decision D15): after reset the buffer is
empty, the model's other fields are empty too (log entries 2, 3, 4), and the core is at rest. -/
def Obligations.ResetStateIsEmptyAndAtRest : Prop :=
  State.reset.buf = [] ∧ State.reset.events = [] ∧ State.reset.work = Work.idle ∧ State.reset.inbox = [] ∧
    AtRest State.reset ∧ HostOnly State.reset.inbox

/-- RESET discards every unresolved byte, emits nothing and leaves the power-on state, whatever the state was
(decision D15); operations the host has issued after it still wait (log entry 2). -/
def Obligations.ResetRestoresPowerOn : Prop :=
  ∀ s : State, exec .reset s = .next { State.reset with inbox := s.inbox }

/-! ### INGEST as a whole -/

/-- 44_core_interface.md section INGEST (R85): INGEST is append and then the loop of the numbered steps to its stop:
the same buffer and the same events; it answers for every state and chunk, and the answer depends on the buffer and
the chunk alone. -/
def Obligations.IngestIsItsSteps : Prop :=
  ∀ (s : State) (chunk : List Byte),
    (∃ t : State, exec (.ingest chunk) s = .next t ∧ t.inbox = s.inbox ∧ t.work = Work.idle ∧
      ∃ (fuel : Nat) (u : State) (w : WaitReason),
        andThen (exec (.scanAppend chunk) { s with events := [] }) (runSteps inScanner fuel) = .next u ∧
        u.work.ctrl = .stopped w ∧ t.buf = u.buf ∧ t.events = u.events) ∧
    (∀ s' t t' : State, s'.buf = s.buf → exec (.ingest chunk) s = .next t → exec (.ingest chunk) s' = .next t' →
      t'.buf = t.buf ∧ t'.events = t.events)

/-- 40_framescanner.md R56 (derived there): where the steps of a transaction stop, the reason is the one the final
buffer shows. -/
def Obligations.StopReasonIsShownByBuffer : Prop :=
  ∀ (s u : State) (fuel : Nat) (w : WaitReason),
    s.work.ctrl = .find → runSteps inScanner fuel s = .next u → u.work.ctrl = .stopped w →
    (w = .sentinel ∧ (0xFB : Byte) ∉ u.buf) ∨
    (w = .header ∧ ∃ i, FirstSentinel u.buf i ∧ u.buf.length < i + 5) ∨
    (w = .body ∧ ∃ i len, FirstSentinel u.buf i ∧ i + 5 ≤ u.buf.length ∧ u.buf[i + 2]? = some len ∧
      u.buf.length < i + len.toNat + 3)

/-- 44_core_interface.md section INGEST, chunking invariance (R91; its general form is derived there): two ways of
cutting one byte sequence give the same events in the same order and the same final buffer. -/
def Obligations.ChunkingInvariance : Prop :=
  ∀ (s : State) (cut cut' : List (List Byte)), Quiescent s.buf → cut.flatten = cut'.flatten →
    (feed cut s).1 = (feed cut' s).1 ∧ (feed cut s).2.buf = (feed cut' s).2.buf

/-- 10_state.md section 8 (R14, derived there) with R9: a step of a host that issues transactions only takes a core at
rest to a core at rest. -/
def Obligations.StepKeepsRest : Prop :=
  ∀ s t : State, AtRest s → HostOnly s.inbox → step s = .next t → AtRest t ∧ HostOnly t.inbox

/-- 10_state.md section 1 (R8, exact form derived there): after a transaction the buffer is a suffix of the old bytes
followed by the chunk. -/
def Obligations.BufferIsSuffixOfStream : Prop :=
  ∀ (s : State) (chunk : List Byte), ∃ t k, exec (.ingest chunk) s = .next t ∧
    k ≤ s.buf.length + chunk.length ∧ t.buf = (s.buf ++ chunk).drop k

/-- 10_state.md section 8: at most 257 bytes are held from the first sentinel onward after a transaction. -/
def Obligations.HeldSpanBounded : Prop :=
  ∀ (s : State) (chunk : List Byte), ∃ t, exec (.ingest chunk) s = .next t ∧
    ∀ i, FirstSentinel t.buf i → t.buf.length ≤ i + 257

/-- 40_framescanner.md R53 (derived there): a transaction emits at most two events for each byte it scans. -/
def Obligations.EventCountBounded : Prop :=
  ∀ (s : State) (chunk : List Byte), ∃ t, exec (.ingest chunk) s = .next t ∧
    t.events.length ≤ 2 * (s.buf.length + chunk.length)

/-- 30_encoding.md R36 (derived there): no accepted frame has a command below 2. -/
def Obligations.AcceptedCommandsAtLeastTwo : Prop :=
  ∀ (s t : State) (chunk : List Byte) (c : Byte), exec (.ingest chunk) s = .next t →
    .frameAccepted c ∈ t.events → 2 ≤ c.toNat

/-- 43_telemetrydecoder.md R84 (derived there): the integrated core never reports `DecodeError`. -/
def Obligations.IngestNeverReportsDecodeError : Prop :=
  ∀ (s t : State) (chunk : List Byte) (r : DecodeReason), exec (.ingest chunk) s = .next t →
    .decodeError r ∉ t.events

/-- 30_encoding.md R43: a `TerminatorMismatch` expects 0xFE and found another byte, a `ChecksumMismatch` reports two
different bytes. -/
def Obligations.MismatchEventsDiffer : Prop :=
  ∀ (s t : State) (chunk : List Byte) (x a : Byte), exec (.ingest chunk) s = .next t →
    (.terminatorMismatch x a ∈ t.events → x = 0xFE ∧ a ≠ 0xFE) ∧
    (.checksumMismatch x a ∈ t.events → x ≠ a)

/-- 44_core_interface.md R86 (the spec's own decision D6): a decoded record comes right behind the acceptance of its
frame, and the acceptance of a telemetry frame is followed by its record. -/
def Obligations.TelemetryFollowsAcceptance : Prop :=
  ∀ (s t : State) (chunk : List Byte) (i : Nat), exec (.ingest chunk) s = .next t →
    (∀ r, t.events[i]? = some (.telemetryDecoded r) →
      ∃ j, i = j + 1 ∧ t.events[j]? = some (.frameAccepted 0x11)) ∧
    (t.events[i]? = some (.frameAccepted 0x11) → ∃ r, t.events[i + 1]? = some (.telemetryDecoded r))

/-! ### INGEST: what becomes of the first candidate -/

/-- 44_core_interface.md R92: without a sentinel there is no event and the buffer holds exactly the bytes. -/
def Obligations.NoSentinelKeepsBytes : Prop :=
  ∀ (s : State) (chunk : List Byte), (0xFB : Byte) ∉ s.buf ++ chunk →
    exec (.ingest chunk) s = .next { s with buf := s.buf ++ chunk, events := [], work := Work.idle }

/-- 40_framescanner.md R48, R49: fewer than five bytes from the sentinel, or fewer than `frameEnd` bytes, give no
event and the buffer keeps everything. -/
def Obligations.IncompleteCandidateWaits : Prop :=
  ∀ (s : State) (chunk : List Byte) (i : Nat) (len : Byte), FirstSentinel (s.buf ++ chunk) i →
    (s.buf.length + chunk.length < i + 5 ∨
      ((s.buf ++ chunk)[i + 2]? = some len ∧ s.buf.length + chunk.length < i + len.toNat + 3)) →
    exec (.ingest chunk) s = .next { s with buf := s.buf ++ chunk, events := [], work := Work.idle }

/-- 41_framevalidator.md R64 row 1 and 40_framescanner.md R51: a wrong last byte is reported, the prefix and the one
sentinel byte are dropped, and the rest of the candidate is scanned again. -/
def Obligations.BadTerminatorSkipsOneByte : Prop :=
  ∀ (s : State) (chunk pre cand rest : List Byte) (len last : Byte),
    s.buf ++ chunk = pre ++ cand ++ rest → (0xFB : Byte) ∉ pre → Candidate cand len →
    5 ≤ cand.length + rest.length → cand[len.toNat + 2]? = some last → last ≠ 0xFE →
    ∃ t u, exec (.ingest chunk) s = .next t ∧ exec (.ingest []) { s with buf := cand.drop 1 ++ rest } = .next u ∧
      t.buf = u.buf ∧ t.events = .terminatorMismatch 0xFE last :: u.events

/-- 41_framevalidator.md R64 row 2 and 40_framescanner.md R52: a right terminator with a wrong checksum is reported,
and the prefix and the whole candidate are dropped. -/
def Obligations.BadChecksumDropsSpan : Prop :=
  ∀ (s : State) (chunk pre cand rest : List Byte) (len cks calculated : Byte),
    s.buf ++ chunk = pre ++ cand ++ rest → (0xFB : Byte) ∉ pre → Candidate cand len →
    5 ≤ cand.length + rest.length → cand[len.toNat + 2]? = some 0xFE → cand[len.toNat + 1]? = some cks →
    calculated.toNat = dueChecksum cand len → calculated ≠ cks →
    ∃ t u, exec (.ingest chunk) s = .next t ∧ exec (.ingest []) { s with buf := rest } = .next u ∧
      t.buf = u.buf ∧ t.events = .checksumMismatch calculated cks :: u.events

/-- 41_framevalidator.md R64 row 3: an intact frame of another command is accepted, with no other event, and dropped
with its prefix. -/
def Obligations.UnrecognizedFrameAccepted : Prop :=
  ∀ (s : State) (chunk pre payload rest : List Byte) (len rsv : Byte),
    s.buf ++ chunk = pre ++ goodFrame len rsv payload ++ rest → (0xFB : Byte) ∉ pre →
    2 ≤ len.toNat → payload.length = len.toNat - 2 → len ≠ 0x11 →
    ∃ t u, exec (.ingest chunk) s = .next t ∧ exec (.ingest []) { s with buf := rest } = .next u ∧
      t.buf = u.buf ∧ t.events = .frameAccepted len :: u.events

/-- 41_framevalidator.md R64 row 4: an intact telemetry frame is accepted and then decoded into the record its payload
holds. -/
def Obligations.TelemetryFrameDecoded : Prop :=
  ∀ (s : State) (chunk pre payload rest : List Byte) (rsv : Byte),
    s.buf ++ chunk = pre ++ goodFrame 0x11 rsv payload ++ rest → (0xFB : Byte) ∉ pre → payload.length = 15 →
    ∃ t u r, exec (.ingest chunk) s = .next t ∧ exec (.ingest []) { s with buf := rest } = .next u ∧
      RecordReads r payload ∧
      t.buf = u.buf ∧ t.events = .frameAccepted 0x11 :: .telemetryDecoded r :: u.events

/-- 30_encoding.md R36 (derived there): what a length of 0 and a length of 1 give, once five bytes are present. -/
def Obligations.DegenerateLengths : Prop :=
  ∀ (s : State) (rsv b3 b4 : Byte), s.buf = [] → rsv ≠ 0xFB → b3 ≠ 0xFB → b4 ≠ 0xFB →
    exec (.ingest [0xFB, rsv, 0x00, b3, b4]) s =
      .next { s with buf := [rsv, 0x00, b3, b4], events := [.terminatorMismatch 0xFE 0x00], work := Work.idle } ∧
    (b3 ≠ 0xFE → exec (.ingest [0xFB, rsv, 0x01, b3, b4]) s =
      .next { s with buf := [rsv, 0x01, b3, b4], events := [.terminatorMismatch 0xFE b3], work := Work.idle }) ∧
    (b3 = 0xFE → exec (.ingest [0xFB, rsv, 0x01, b3, b4]) s =
      .next { s with buf := [b4], events := [.checksumMismatch 0x02 0x01], work := Work.idle })

/-- 70_reset_and_hazards.md R114, last sentence: behind a spurious sentinel a real frame with reserved byte 0x00 is
always found. -/
def Obligations.SpuriousSentinelKeepsFrame : Prop :=
  (∀ (s : State) (payload : List Byte) (len : Byte), (0xFB : Byte) ∉ s.buf → 2 ≤ len.toNat →
    payload.length = len.toNat - 2 → len ≠ 0x11 →
    exec (.ingest (0xFB :: goodFrame len 0x00 payload)) s =
      .next { s with buf := [], events := [.terminatorMismatch 0xFE 0x00, .frameAccepted len], work := Work.idle }) ∧
  (∀ (s : State) (payload : List Byte), (0xFB : Byte) ∉ s.buf → payload.length = 15 →
    ∃ r, RecordReads r payload ∧ exec (.ingest (0xFB :: goodFrame 0x11 0x00 payload)) s =
      .next { s with buf := [],
                     events := [.terminatorMismatch 0xFE 0x00, .frameAccepted 0x11, .telemetryDecoded r],
                     work := Work.idle })

/-- 95_test_vectors.md part 4, item 10: the false variant, that a good frame behind a spurious sentinel is reported
whatever its reserved byte. It must be refutable (R114's hazard). -/
def Obligations.EveryFrameBehindSpuriousSentinelReported : Prop :=
  ∀ (s : State) (payload : List Byte) (len rsv : Byte), s.buf = [] → 2 ≤ len.toNat →
    payload.length = len.toNat - 2 →
    ∃ t, exec (.ingest (0xFB :: goodFrame len rsv payload)) s = .next t ∧ .frameAccepted len ∈ t.events

/-- 92_eei_decisions.md D2: under a finite capacity an append or a transaction that would exceed it is a model fault,
and one that would not is as without a capacity. -/
def Obligations.FiniteCapacityFaults : Prop :=
  ∀ (n : Nat) (chunk : List Byte) (s : State),
    (n < s.buf.length + chunk.length →
      ingestWithin (some n) chunk s = .fault .bufferOverflow ∧ appendWithin (some n) chunk s = .fault .bufferOverflow) ∧
    (s.buf.length + chunk.length ≤ n →
      ingestWithin (some n) chunk s = exec (.ingest chunk) s ∧
      appendWithin (some n) chunk s = .next { s with buf := s.buf ++ chunk })

/-! ### Bytes on the wire -/

/-- The rows of bytes on the wire complete as the transaction that carries those bytes (log entry 6). -/
def Obligations.WireRowsArriveAsChunks : Prop :=
  ∀ (s : State) (len rsv b : Byte) (payload : List Byte),
    (∃ t, exec (.frame len rsv payload) s = .next t ∧ exec (.ingest (goodFrame len rsv payload)) s = .next t) ∧
    (∃ t, exec (.telem rsv payload) s = .next t ∧ exec (.ingest (goodFrame 0x11 rsv payload)) s = .next t) ∧
    (∃ t, exec (.frameHeader rsv len) s = .next t ∧ exec (.ingest [0xFB, rsv, len]) s = .next t) ∧
    (∃ t, exec .frameSentinel s = .next t ∧ exec (.ingest [0xFB]) s = .next t) ∧
    (∃ t, exec (.frameReserved b) s = .next t ∧ exec (.ingest [b]) s = .next t) ∧
    (∃ t, exec .frameTerminator s = .next t ∧ exec (.ingest [0xFE]) s = .next t)

/-- 30_encoding.md R28, R37: a whole frame that arrives behind a sentinel-free buffer is accepted and leaves the
buffer empty; with the telemetry command its record follows. -/
def Obligations.WholeFrameRowIsAccepted : Prop :=
  (∀ (s : State) (len rsv : Byte) (payload : List Byte), (0xFB : Byte) ∉ s.buf → 2 ≤ len.toNat → len ≠ 0x11 →
    payload.length = len.toNat - 2 →
    exec (.frame len rsv payload) s =
      .next { s with buf := [], events := [.frameAccepted len], work := Work.idle }) ∧
  (∀ (s : State) (rsv : Byte) (payload : List Byte), (0xFB : Byte) ∉ s.buf → payload.length = 15 →
    ∃ r, RecordReads r payload ∧ exec (.telem rsv payload) s =
      .next { s with buf := [], events := [.frameAccepted 0x11, .telemetryDecoded r], work := Work.idle })

/-! ### FrameScanner -/

/-- R16: the chunk is appended whole and in order; nothing else changes but that control goes to the search. -/
def Obligations.ScanAppendAppends : Prop :=
  ∀ (s : State) (chunk : List Byte),
    exec (.scanAppend chunk) s =
      .next { s with buf := s.buf ++ chunk, work := { s.work with ctrl := .find } }

/-- R47: the least index that holds the sentinel, or a stop with the buffer unchanged. -/
def Obligations.ScanFindsFirstSentinel : Prop :=
  ∀ s : State,
    ((0xFB : Byte) ∉ s.buf → exec .scanFind s =
      .next { s with work := { s.work with startIndex := none, ctrl := .stopped .sentinel } }) ∧
    (∀ i, FirstSentinel s.buf i → exec .scanFind s =
      .next { s with work := { s.work with startIndex := some i, ctrl := .header } })

/-- R48: the test counts the sentinel itself; below five bytes it stops with the buffer unchanged. -/
def Obligations.ScanHeaderNeedsFiveBytes : Prop :=
  ∀ (s : State) (i : Nat),
    (s.buf.length < i + 5 → exec (.scanHeader i) s =
      .next { s with work := { s.work with ctrl := .stopped .header } }) ∧
    (i + 5 ≤ s.buf.length → exec (.scanHeader i) s = .next { s with work := { s.work with ctrl := .length } })

/-- R49: the length is read from offset 2, `frameEnd` is computed without wrap, and the buffer must hold `frameEnd`
bytes. -/
def Obligations.ScanLengthComputesFrameEnd : Prop :=
  ∀ (s : State) (i : Nat) (len : Byte), s.buf[i + 2]? = some len →
    (s.buf.length < i + 2 + len.toNat + 1 → exec (.scanLength i) s =
      .next { s with work := { s.work with len := len, frameEnd := i + 2 + len.toNat + 1, ctrl := .stopped .body } }) ∧
    (i + 2 + len.toNat + 1 ≤ s.buf.length → exec (.scanLength i) s =
      .next { s with work := { s.work with len := len, frameEnd := i + 2 + len.toNat + 1, ctrl := .slice } })

/-- R50: the slice is a copy handed to the validator; the buffer is not changed by this step. -/
def Obligations.ScanSliceValidatesCopy : Prop :=
  ∀ (s : State) (i e : Nat), i + 3 ≤ e → e ≤ s.buf.length →
    ∃ t, exec (.scanSlice i e) s = .next t ∧
      exec (.validate ((s.buf.take e).drop i)) { s with work := { s.work with frame := (s.buf.take e).drop i } } =
        .next t ∧
      t.buf = s.buf ∧ t.inbox = s.inbox ∧ t.work.frame = (s.buf.take e).drop i ∧
      t.work.startIndex = s.work.startIndex ∧ t.work.len = s.work.len ∧ t.work.frameEnd = s.work.frameEnd ∧
      (t.work.ctrl = .resync ∨ t.work.ctrl = .consume)

/-- 40_framescanner.md R51, R52 (the conditions that select them are in `ValidateOutcomes`): the targeted skip drops
`startIndex + 1` bytes, the full-span drop exactly `frameEnd` bytes, and both go on from the new head. -/
def Obligations.ScannerDropsGoOn : Prop :=
  ∀ (s : State) (k : Nat),
    (k + 1 ≤ s.buf.length → exec (.scanResync k) s =
      .next { s with buf := s.buf.drop (k + 1), work := { s.work with ctrl := .find } }) ∧
    (k ≤ s.buf.length → exec (.scanConsume k) s =
      .next { s with buf := s.buf.drop k, work := { s.work with ctrl := .find } })

/-- 20_memory.md R17, R18 (the fault is the model's, log entry 1): what the model does with a read or a drop outside a
sequence, which no scan asks for. -/
def Obligations.AccessOutsideSequenceFaults : Prop :=
  ∀ (s : State) (k : Nat) (bytes : List Byte),
    (s.buf.length ≤ k + 2 → exec (.scanLength k) s = .fault .indexOutOfRange) ∧
    (s.buf.length < k + 1 → exec (.scanResync k) s = .fault .dropOutOfRange) ∧
    (s.buf.length < k → exec (.scanConsume k) s = .fault .dropOutOfRange) ∧
    exec (.valTerm []) s = .fault .indexOutOfRange ∧
    (bytes.length < 3 → exec (.valExtract bytes) s = .fault .indexOutOfRange) ∧
    (bytes.length < 15 → exec (.telemPayload bytes) s = .fault .indexOutOfRange)

/-! ### FrameValidator and ChecksumEngine -/

/-- 41_framevalidator.md R57, R64: on a candidate the validator has exactly one of three outcomes, decided in order,
with exactly these events, ephemeral values and next scan step. -/
def Obligations.ValidateOutcomes : Prop :=
  ∀ (s : State) (cand : List Byte) (len last cks calculated : Byte),
    Candidate cand len → cand[len.toNat + 2]? = some last → cand[len.toNat + 1]? = some cks →
    calculated.toNat = dueChecksum cand len →
    (last ≠ 0xFE → exec (.validate cand) s =
      .next { s with events := s.events ++ [.terminatorMismatch 0xFE last],
                     work := { s.work with verdict := some (.terminatorBad last), ctrl := .resync } }) ∧
    (last = 0xFE → calculated ≠ cks → exec (.validate cand) s =
      .next { s with events := s.events ++ [.checksumMismatch calculated cks],
                     work := { s.work with cmd := len, cks := cks, payload := (cand.take (len.toNat + 1)).drop 3,
                                           calculated := calculated, verdict := some (.checksumBad calculated cks),
                                           ctrl := .consume } }) ∧
    (last = 0xFE → calculated = cks → len ≠ 0x11 → exec (.validate cand) s =
      .next { s with events := s.events ++ [.frameAccepted len],
                     work := { s.work with cmd := len, cks := cks, payload := (cand.take (len.toNat + 1)).drop 3,
                                           calculated := calculated,
                                           verdict := some (.valid len ((cand.take (len.toNat + 1)).drop 3)),
                                           ctrl := .consume } }) ∧
    (last = 0xFE → calculated = cks → len = 0x11 → ∃ r, RecordReads r ((cand.take (len.toNat + 1)).drop 3) ∧
      exec (.validate cand) s =
      .next { s with events := s.events ++ [.frameAccepted len, .telemetryDecoded r],
                     work := { s.work with cmd := len, cks := cks, payload := (cand.take (len.toNat + 1)).drop 3,
                                           calculated := calculated,
                                           verdict := some (.valid len ((cand.take (len.toNat + 1)).drop 3)),
                                           ctrl := .consume, record := none } })

/-- 41_framevalidator.md R57: the validator is its steps (a) to (f) in order; a bad terminator ends it at (a). -/
def Obligations.ValidateIsItsSteps : Prop :=
  ∀ (s : State) (len : Byte), Candidate s.work.frame len → s.work.ctrl = .term →
    ∃ t, exec (.validate s.work.frame) s = .next t ∧ runSteps inValidator 6 s = .next t

/-- R58: the last byte is compared with 0xFE; nothing else of the frame is read. -/
def Obligations.ValTermComparesLastByte : Prop :=
  ∀ (s : State) (frame : List Byte) (last : Byte), frame.getLast? = some last →
    (last ≠ 0xFE → exec (.valTerm frame) s =
      .next { s with events := s.events ++ [.terminatorMismatch 0xFE last],
                     work := { s.work with verdict := some (.terminatorBad last), ctrl := .resync } }) ∧
    (last = 0xFE → exec (.valTerm frame) s = .next { s with work := { s.work with ctrl := .extract } })

/-- R59: the command is the byte at offset 2, the declared checksum the second-to-last byte. -/
def Obligations.ValExtractReadsCommandAndChecksum : Prop :=
  ∀ (s : State) (frame : List Byte) (cmd cks : Byte), frame[2]? = some cmd → frame[frame.length - 2]? = some cks →
    exec (.valExtract frame) s =
      .next { s with work := { s.work with cmd := cmd, cks := cks, ctrl := .payload } }

/-- 41_framevalidator.md R60 (the crossing bounds of `L = 1` are the spec's decision D8): the bytes strictly between
command and checksum. -/
def Obligations.ValPayloadTakesMiddle : Prop :=
  ∀ (s : State) (frame : List Byte),
    exec (.valPayload frame) s =
      .next { s with work := { s.work with payload := (frame.take (frame.length - 2)).drop 3, ctrl := .calculate } }

/-- R65: CHECKSUM, and VAL.CALC through it (41_framevalidator.md R61), compute the unbounded sum of length, command
and payload, reduced once modulo 256; nothing else changes. -/
def Obligations.ChecksumIsSumModulo256 : Prop :=
  ∀ (s : State) (len cmd c : Byte) (payload : List Byte),
    c.toNat = (len.toNat + cmd.toNat + (payload.map BitVec.toNat).sum) % 256 →
    exec (.checksum len cmd payload) s = .next { s with work := { s.work with calculated := c } } ∧
    exec (.valCalc len cmd payload) s = .next { s with work := { s.work with calculated := c, ctrl := .compare } }

/-- 42_checksumengine.md R67: the result does not depend on the order of the payload bytes. -/
def Obligations.ChecksumIgnoresPayloadOrder : Prop :=
  ∀ (s : State) (len cmd : Byte) (p q : List Byte), p.Perm q →
    ∃ t, exec (.checksum len cmd p) s = .next t ∧ exec (.checksum len cmd q) s = .next t

/-- R62: a difference is reported with the calculated value as `expected`; equal values go on to acceptance. -/
def Obligations.ValMismatchReportsDifference : Prop :=
  ∀ (s : State) (calculated cks : Byte),
    (calculated ≠ cks → exec (.valMismatch calculated cks) s =
      .next { s with events := s.events ++ [.checksumMismatch calculated cks],
                     work := { s.work with verdict := some (.checksumBad calculated cks), ctrl := .consume } }) ∧
    (calculated = cks → exec (.valMismatch calculated cks) s = .next { s with work := { s.work with ctrl := .accept } })

/-- 41_framevalidator.md R63 (both events and their order are the spec's decision D6): acceptance, then the decoder
for the recognised command. -/
def Obligations.ValAcceptForwardsTelemetry : Prop :=
  ∀ (s : State) (cmd : Byte) (payload : List Byte),
    (cmd ≠ 0x11 → exec (.valAccept cmd payload) s =
      .next { s with events := s.events ++ [.frameAccepted cmd],
                     work := { s.work with verdict := some (.valid cmd payload), ctrl := .consume } }) ∧
    (cmd = 0x11 → payload.length < 15 → exec (.valAccept cmd payload) s =
      .next { s with events := s.events ++ [.frameAccepted cmd, .decodeError .insufficientPayload],
                     work := { s.work with verdict := some (.valid cmd payload), ctrl := .consume, record := none } }) ∧
    (cmd = 0x11 → 15 ≤ payload.length → ∃ r, RecordReads r payload ∧ exec (.valAccept cmd payload) s =
      .next { s with events := s.events ++ [.frameAccepted cmd, .telemetryDecoded r],
                     work := { s.work with verdict := some (.valid cmd payload), ctrl := .consume, record := none } })

/-- 30_encoding.md R36, R37: the outcome each class of command byte decides (log entry 7). -/
def Obligations.CommandByteOutcomes : Prop :=
  ∀ (s : State) (cmd last : Byte) (payload : List Byte),
    (payload.length = 15 → ∃ r, RecordReads r payload ∧ exec (.cmdTelemetry payload) s =
      .next { s with events := s.events ++ [.frameAccepted 0x11, .telemetryDecoded r],
                     work := { s.work with verdict := some (.valid 0x11 payload), ctrl := .consume, record := none } }) ∧
    (cmd ≠ 0x11 → exec (.cmdUnrecognized cmd payload) s =
      .next { s with events := s.events ++ [.frameAccepted cmd],
                     work := { s.work with verdict := some (.valid cmd payload), ctrl := .consume } }) ∧
    exec .cmdLen0 s =
      .next { s with events := s.events ++ [.terminatorMismatch 0xFE 0x00],
                     work := { s.work with verdict := some (.terminatorBad 0x00), ctrl := .resync } } ∧
    (last ≠ 0xFE → exec (.cmdLen1 last) s =
      .next { s with events := s.events ++ [.terminatorMismatch 0xFE last],
                     work := { s.work with verdict := some (.terminatorBad last), ctrl := .resync } }) ∧
    (last = 0xFE → exec (.cmdLen1 last) s =
      .next { s with events := s.events ++ [.checksumMismatch 0x02 0x01],
                     work := { s.work with verdict := some (.checksumBad 0x02 0x01), ctrl := .consume } })

/-! ### TelemetryDecoder -/

/-- 43_telemetrydecoder.md R69, R70, R71 and R82 (derived there; the no-faults indicator is the spec's decision D10):
no output for another command, the error alone for a short payload, else the record, offsets 15 and beyond ignored.
Whatever record stood in State before (log entry 3), none is kept (R83). -/
def Obligations.DecodeBranches : Prop :=
  ∀ (s : State) (cmd : Byte) (payload : List Byte),
    (cmd ≠ 0x11 → exec (.decode cmd payload) s = .next { s with work := { s.work with record := none } }) ∧
    (cmd = 0x11 → payload.length < 15 → exec (.decode cmd payload) s =
      .next { s with events := s.events ++ [.decodeError .insufficientPayload],
                     work := { s.work with record := none } }) ∧
    (cmd = 0x11 → 15 ≤ payload.length → ∃ r, RecordReads r payload ∧ exec (.decode cmd payload) s =
      .next { s with events := s.events ++ [.telemetryDecoded r], work := { s.work with record := none } })

/-- R71: the guard compares the payload's own length with 15; 14 fails, 15 passes; no partial record is held behind
it. -/
def Obligations.DecodeGuardNeedsFifteen : Prop :=
  ∀ (s : State) (payload : List Byte),
    (payload.length < 15 → exec (.decodeGuard 0x11 payload) s =
      .next { s with events := s.events ++ [.decodeError .insufficientPayload],
                     work := { s.work with record := none } }) ∧
    (15 ≤ payload.length → exec (.decodeGuard 0x11 payload) s =
      .next { s with work := { s.work with record := none } })

/-- 43_telemetrydecoder.md R70: for another command neither the dispatch nor the guard emits anything, and no record
is held (R83; log entry 3); nothing else changes. -/
def Obligations.DecodeOtherIsSilent : Prop :=
  ∀ (s : State) (cmd : Byte) (payload : List Byte), cmd ≠ 0x11 →
    exec (.decodeOther cmd payload) s = .next { s with work := { s.work with record := none } } ∧
    exec (.decodeGuard cmd payload) s = .next { s with work := { s.work with record := none } }

/-- 30_encoding.md R39 and 43_telemetrydecoder.md R72 to R75 (the raw counts of the two "÷10" fields are the spec's
decision D9; that the record being built stands in State is log entry 3): the multi-byte fields are the unsigned
little-endian values of their bytes; nothing else changes. -/
def Obligations.MultiByteFieldsAreLittleEndian : Prop :=
  ∀ (s : State) (b0 b1 b2 : Byte) (v : BitVec 24) (d : BitVec 16) (r : TelemetryRecord),
    v.toNat = b0.toNat + 256 * b1.toNat + 65536 * b2.toNat → d.toNat = b0.toNat + 256 * b1.toNat →
    r = s.work.record.getD .blank →
    exec (.telemOdometer b0 b1 b2) s = .next { s with work := { s.work with record := some { r with odometerRaw := v } } } ∧
    exec (.telemTotalTime b0 b1 b2) s = .next { s with work := { s.work with record := some { r with totalTime := v } } } ∧
    exec (.telemTripDistance b0 b1) s =
      .next { s with work := { s.work with record := some { r with tripDistanceRaw := d } } } ∧
    exec (.telemTripTime b0 b1 b2) s = .next { s with work := { s.work with record := some { r with tripTime := v } } }

/-- 43_telemetrydecoder.md R76, R78, R79 (that the record being built stands in State is log entry 3): the one-byte
fields take their byte unchanged, the whole range of it; byte 12 (R77) is in no field. -/
def Obligations.OneByteFieldsAreUnchanged : Prop :=
  ∀ (s : State) (b : Byte) (r : TelemetryRecord), r = s.work.record.getD .blank →
    exec (.telemRemainingRange b) s =
      .next { s with work := { s.work with record := some { r with remainingRange := b } } } ∧
    exec (.telemReserved12 b) s = .next s ∧
    exec (.telemBatteryPercent b) s =
      .next { s with work := { s.work with record := some { r with batteryPercent := b } } } ∧
    exec (.telemErrorFlags b) s = .next { s with work := { s.work with record := some { r with errorFlags := b } } }

/-- 30_encoding.md R38, R39: the whole payload gives the whole record, whatever was being built before (its no-faults
indicator is the spec's decision D10, its exact tenths D9; that it stands in State is log entry 3). -/
def Obligations.PayloadGivesRecord : Prop :=
  ∀ (s : State) (payload : List Byte), payload.length = 15 →
    ∃ r, RecordReads r payload ∧
      exec (.telemPayload payload) s = .next { s with work := { s.work with record := some r } }

/-- 43_telemetrydecoder.md R69, R83 (that the rows build one record in turn is log entry 3): the field rows, the flag
rows and the no-faults row, in the order of the payload, build the record the whole payload gives, whatever was being
built before; with the guard before them and the hand-over behind them they are a call of the decoder, and nothing is
kept. -/
def Obligations.FieldRowsBuildRecord : Prop :=
  ∀ (s : State) (p0 p1 p2 p3 p4 p5 p6 p7 p8 p9 p10 p11 p12 p13 p14 : Byte), ∃ (r : TelemetryRecord) (t u v : State),
    exec (.decodeGuard 0x11 [p0, p1, p2, p3, p4, p5, p6, p7, p8, p9, p10, p11, p12, p13, p14]) s = .next u ∧
    exec (.telemPayload [p0, p1, p2, p3, p4, p5, p6, p7, p8, p9, p10, p11, p12, p13, p14]) s = .next t ∧
    (∀ w : State, w = s ∨ w = u →
      [Instr.telemOdometer p0 p1 p2, .telemTotalTime p3 p4 p5, .telemTripDistance p6 p7, .telemTripTime p8 p9 p10,
        .telemRemainingRange p11, .telemReserved12 p12, .telemBatteryPercent p13, .telemErrorFlags p14,
        .errFlagController p14, .errFlagDisplay p14, .errFlagBattery p14, .errFlagCurrentLimiting p14,
        .errFlagIgnored p14, .noFaults p14].foldl (fun o i => andThen o (exec i)) (.next w) = .next t) ∧
    t.work.record = some r ∧ exec (.evTelemetryDecoded r) t = .next v ∧
    exec (.decode 0x11 [p0, p1, p2, p3, p4, p5, p6, p7, p8, p9, p10, p11, p12, p13, p14]) s = .next v

/-- 30_encoding.md R40 and 43_telemetrydecoder.md R80 (the list of identifiers is the spec's decision D10, the record
being built log entry 3): behind a flag row the list has the row's name exactly when its bit is set, every other name
as before, in ascending bit order; bits 4 to 7 add nothing. -/
def Obligations.FlagRowsAddSetFaults : Prop :=
  ∀ (s : State) (flags : Byte) (r : TelemetryRecord) (c d b l : List FaultName), r = s.work.record.getD .blank →
    c = (if .controllerFault ∈ r.faults then [.controllerFault] else []) →
    d = (if .displayFault ∈ r.faults then [.displayFault] else []) →
    b = (if .batteryFault ∈ r.faults then [.batteryFault] else []) →
    l = (if .currentLimiting ∈ r.faults then [.currentLimiting] else []) →
    exec (.errFlagController flags) s = .next { s with work := { s.work with record := some { r with
      faults := (if flags.getLsbD 0 then [.controllerFault] else []) ++ d ++ b ++ l } } } ∧
    exec (.errFlagDisplay flags) s = .next { s with work := { s.work with record := some { r with
      faults := c ++ (if flags.getLsbD 1 then [.displayFault] else []) ++ b ++ l } } } ∧
    exec (.errFlagBattery flags) s = .next { s with work := { s.work with record := some { r with
      faults := c ++ d ++ (if flags.getLsbD 2 then [.batteryFault] else []) ++ l } } } ∧
    exec (.errFlagCurrentLimiting flags) s = .next { s with work := { s.work with record := some { r with
      faults := c ++ d ++ b ++ (if flags.getLsbD 3 then [.currentLimiting] else []) } } } ∧
    exec (.errFlagIgnored flags) s = .next s

/-- 43_telemetrydecoder.md R81 (the spec's decision D10, log entry 9; the record being built is log entry 3): the
indicator looks at the four defined bits only. -/
def Obligations.NoFaultsLooksAtDefinedBits : Prop :=
  ∀ (s : State) (flags : Byte) (r : TelemetryRecord), r = s.work.record.getD .blank →
    exec (.noFaults flags) s = .next { s with work := { s.work with record := some { r with
      noFaults := decide (flags.toNat % 16 = 0) } } }

/-! ### Events and frames -/

/-- 60_exceptions.md R102 (that an event can be issued by itself is log entry 2): reporting appends one event and
saves nothing; behind the decoder's two events no record is held (43_telemetrydecoder.md R83, log entry 3); nothing
else changes. -/
def Obligations.EventRowsAppend : Prop :=
  ∀ (s : State) (x a : Byte) (r : TelemetryRecord) (reason : DecodeReason),
    exec (.evFrameAccepted x) s = .next { s with events := s.events ++ [.frameAccepted x] } ∧
    exec (.evTerminatorMismatch x a) s = .next { s with events := s.events ++ [.terminatorMismatch x a] } ∧
    exec (.evChecksumMismatch x a) s = .next { s with events := s.events ++ [.checksumMismatch x a] } ∧
    exec (.evTelemetryDecoded r) s =
      .next { s with events := s.events ++ [.telemetryDecoded r], work := { s.work with record := none } } ∧
    exec (.evDecodeError reason) s =
      .next { s with events := s.events ++ [.decodeError reason], work := { s.work with record := none } }

/-- 60_exceptions.md R99 (the spec's decision D7): the numbers of the events and of the one reason. -/
def Obligations.EventCodes : Prop :=
  ∀ (x a : Byte) (r : TelemetryRecord),
    Event.code (.frameAccepted x) = 0 ∧ Event.code (.terminatorMismatch x a) = 1 ∧
    Event.code (.checksumMismatch x a) = 2 ∧ Event.code (.telemetryDecoded r) = 3 ∧
    Event.code (.decodeError .insufficientPayload) = 4 ∧ DecodeReason.code .insufficientPayload = 0

/-- 10_state.md R7 over all operations: only the transactions and the scanner's append and two drops change the buffer
(every index of it reads as before); the events of earlier emissions stay in front outside transactions; no operation
touches the operations still waiting. -/
def Obligations.OnlyScannerChangesBuffer : Prop :=
  ∀ (i : Instr) (s t : State), exec i s = .next t →
    t.inbox = s.inbox ∧
    (movesBuffer i = false → ∀ k : Nat, t.buf[k]? = s.buf[k]?) ∧
    (isTransaction i = false → ∃ es, t.events = s.events ++ es)
end

