-- ==== Sys2Proof/Laws/Operands.lean ====
section
/-! SUPPORT. What the operand forms answer: search, slices, sums, assembled fields and natural-number operands. -/

namespace Sys2Proof.Machine

@[simp] theorem byteBits_eq : Config.byteBits = 8 := rfl

theorem byte_toNat_lt (b : Byte) : b.toNat < 256 := b.isLt

theorem findFirst_eq_none {v : Byte} {l : List Byte} : findFirst v l = none ↔ v ∉ l := by
  induction l with
  | nil => simp [findFirst]
  | cons b rest ih =>
    by_cases h : b = v
    · simp [findFirst, h]
    · simp [findFirst, h, ih, Ne.symm h]

/-- The index found holds the value and is the least that does. -/
theorem findFirst_eq_some {v : Byte} {l : List Byte} {i : Nat} :
    findFirst v l = some i ↔ l[i]? = some v ∧ ∀ j, j < i → l[j]? ≠ some v := by
  induction l generalizing i with
  | nil => simp [findFirst]
  | cons b rest ih =>
    by_cases h : b = v
    · cases i with
      | zero => simp [findFirst, h]
      | succ i =>
        refine ⟨fun hf => by simp [findFirst, h] at hf, fun hi => ?_⟩
        exact (hi.2 0 (Nat.succ_pos i) (by simp [h])).elim
    · cases i with
      | zero => simp [findFirst, h]
      | succ i =>
        simp only [findFirst, h, if_false, Option.map_eq_some_iff, Nat.add_right_cancel_iff, exists_eq_right, ih,
          List.getElem?_cons_succ]
        refine and_congr_right fun _ => ⟨fun hj j hlt => ?_, fun hj j hlt => ?_⟩
        · cases j with
          | zero => simpa using h
          | succ j => simpa using hj j (by omega)
        · simpa using hj (j + 1) (by omega)

theorem findFirst_lt_length {v : Byte} {l : List Byte} {i : Nat} (h : findFirst v l = some i) : i < l.length := by
  obtain ⟨hi, -⟩ := findFirst_eq_some.1 h
  exact (List.getElem?_eq_some_iff.1 hi).1

/-- Bytes appended behind the first sentinel do not move it. -/
theorem findFirst_append_of_some {v : Byte} {l : List Byte} {i : Nat} (h : findFirst v l = some i) (ext : List Byte) :
    findFirst v (l ++ ext) = some i := by
  have hlt := findFirst_lt_length h
  obtain ⟨hi, hj⟩ := findFirst_eq_some.1 h
  refine findFirst_eq_some.2 ⟨by rw [List.getElem?_append_left hlt]; exact hi, fun j hjlt => ?_⟩
  rw [List.getElem?_append_left (by omega)]
  exact hj j hjlt

theorem byteAt_append_of_some {l : List Byte} {i : Nat} {b : Byte} (h : byteAt l i = some b) (ext : List Byte) :
    byteAt (l ++ ext) i = some b := by
  have hlt : i < l.length := (List.getElem?_eq_some_iff.1 h).1
  rw [byteAt, List.getElem?_append_left hlt]; exact h

theorem slice_length {l : List Byte} {a b : Nat} (h : b ≤ l.length) : (slice l a b).length = b - a := by
  simp [slice, Nat.min_eq_left h]

theorem slice_append_of_le {l : List Byte} {a b : Nat} (h : b ≤ l.length) (ext : List Byte) :
    slice (l ++ ext) a b = slice l a b := by
  rw [slice, slice, List.take_append_of_le_length h]

/-- A byte of a slice is the byte of the sequence, counted from the slice's start. -/
theorem byteAt_slice {l : List Byte} {a b i : Nat} (h : a + i < b) : byteAt (slice l a b) i = byteAt l (a + i) := by
  rw [byteAt, byteAt, slice, List.getElem?_drop, List.getElem?_take_of_lt h]

theorem checksumOf_toNat (len cmd : Byte) (payload : List Byte) :
    (checksumOf len cmd payload).toNat = (len.toNat + cmd.toNat + sumBytes payload) % 256 := by
  simp [checksumOf, Config.checksumModulus]

theorem sumBytes_append (p q : List Byte) : sumBytes (p ++ q) = sumBytes p + sumBytes q := by
  induction p with
  | nil => simp [sumBytes]
  | cons b rest ih => simp [sumBytes, ih, Nat.add_assoc]

theorem le16_toNat (b0 b1 : Byte) : (le16 b0 b1).toNat = b0.toNat + 256 * b1.toNat := by
  have h0 := byte_toNat_lt b0; have h1 := byte_toNat_lt b1
  simp only [le16, BitVec.toNat_ofNat]; omega

theorem le24_toNat (b0 b1 b2 : Byte) :
    (le24 b0 b1 b2).toNat = b0.toNat + 256 * b1.toNat + 65536 * b2.toNat := by
  have h0 := byte_toNat_lt b0; have h1 := byte_toNat_lt b1; have h2 := byte_toNat_lt b2
  simp only [le24, BitVec.toNat_ofNat]; omega

/-- A record exists exactly when offsets 0 to 14 do. -/
theorem recordOf_isSome {p : List Byte} : (recordOf p).isSome ↔ 15 ≤ p.length := by
  rcases p with _ | ⟨_, _ | ⟨_, _ | ⟨_, _ | ⟨_, _ | ⟨_, _ | ⟨_, _ | ⟨_, _ | ⟨_, _ | ⟨_, _ | ⟨_, _ | ⟨_, _ | ⟨_, _ | ⟨_, _ | ⟨_,
    _ | ⟨_, _⟩⟩⟩⟩⟩⟩⟩⟩⟩⟩⟩⟩⟩⟩⟩ <;> simp [recordOf]

/-- A natural-number operand reads back, whatever follows it. -/
theorem readNat_natBytesFrom (fuel : Nat) : ∀ (n : Nat), n ≤ fuel → ∀ rest : List Byte,
    readNat (natBytesFrom fuel n ++ rest) = some (n, rest) := by
  induction fuel with
  | zero => intro n hn rest; obtain rfl : n = 0 := by omega
            simp [natBytesFrom, readNat]
  | succ fuel ih =>
    intro n hn rest
    by_cases h : n < 128
    · simp [natBytesFrom, readNat, h, Nat.mod_eq_of_lt (by omega : n < 256)]
    · have h2 : (n % 128 + 128) % 256 = n % 128 + 128 := Nat.mod_eq_of_lt (by omega)
      simp only [natBytesFrom, h, if_false, List.cons_append, readNat, BitVec.toNat_ofNat, byteBits_eq, Nat.reducePow, h2,
        ih (n / 128) (by omega) rest, Option.map_some]
      rw [if_neg (by omega)]
      congr 2; omega

theorem readNat_natBytes (n : Nat) (rest : List Byte) : readNat (natBytes n ++ rest) = some (n, rest) :=
  readNat_natBytesFrom n n (Nat.le_refl n) rest

end Sys2Proof.Machine
end

