-- ==== Sys2Proof/Laws/Scan.lean ====
section
/-! SUPPORT. What one iteration of the scan can do, and the loop's equations. -/

namespace Sys2Proof.Machine

theorem headerShort_iff {buf : List Byte} {s : Nat} : headerShort buf s = true ↔ buf.length - s < 5 :=
  decide_eq_true_iff

/-- A complete candidate: the first sentinel, its length byte, and all of its span. -/
theorem locate_candidate {buf : List Byte} {s e : Nat} (h : locate buf = .candidate s e) :
    ∃ len, findFirst Config.sentinel buf = some s ∧ s + 5 ≤ buf.length ∧ byteAt buf (s + 2) = some len ∧
      e = s + len.toNat + 3 ∧ e ≤ buf.length := by
  unfold locate at h
  split at h
  · cases h
  · rename_i i hi
    have hlt := findFirst_lt_length hi
    split at h
    · cases h
    · rename_i hs
      split at h
      · cases h
      · rename_i len hb
        split at h
        · cases h
        · rename_i he
          obtain ⟨rfl, rfl⟩ := Located.candidate.inj h
          rw [headerShort_iff] at hs
          simp only [frameEndOf, Config.lenOffset] at he ⊢
          exact ⟨len, hi, by omega, hb, by omega, by omega⟩

/-- Conversely, those four facts make a candidate. -/
theorem locate_of_candidate {buf : List Byte} {s : Nat} {len : Byte}
    (hs : findFirst Config.sentinel buf = some s) (h5 : s + 5 ≤ buf.length) (hb : byteAt buf (s + 2) = some len)
    (he : s + len.toNat + 3 ≤ buf.length) : locate buf = .candidate s (s + len.toNat + 3) := by
  have h1 : headerShort buf s = false := by
    rw [Bool.eq_false_iff, Ne, headerShort_iff]; omega
  have h2 : frameEndOf s len = s + len.toNat + 3 := by simp [frameEndOf, Config.lenOffset]; omega
  simp [locate, hs, h1, Config.lenOffset, hb, h2, Nat.not_lt.2 he]

/-- The three places where the scan stops (R56). -/
theorem locate_wait {buf : List Byte} {w : WaitReason} (h : locate buf = .wait w) :
    (w = .sentinel ∧ Config.sentinel ∉ buf) ∨
    (∃ s, w = .header ∧ findFirst Config.sentinel buf = some s ∧ buf.length < s + 5) ∨
    (∃ s len, w = .body ∧ findFirst Config.sentinel buf = some s ∧ s + 5 ≤ buf.length ∧
      byteAt buf (s + 2) = some len ∧ buf.length < s + len.toNat + 3) := by
  unfold locate at h
  split at h
  · rename_i hn; cases h; exact .inl ⟨rfl, findFirst_eq_none.1 hn⟩
  · rename_i i hi
    have hlt := findFirst_lt_length hi
    by_cases hs : headerShort buf i = true
    · rw [if_pos hs] at h
      rw [headerShort_iff] at hs
      cases h; exact .inr (.inl ⟨i, rfl, hi, by omega⟩)
    · rw [if_neg hs] at h
      rw [headerShort_iff] at hs
      split at h
      · rename_i hb
        rw [byteAt, List.getElem?_eq_none_iff] at hb
        simp only [Config.lenOffset] at hb; omega
      · rename_i len hb
        split at h
        · rename_i he
          simp only [frameEndOf, Config.lenOffset] at he
          cases h; exact .inr (.inr ⟨i, len, rfl, hi, by omega, hb, by omega⟩)
        · cases h

/-- The validator answers on every frame of three bytes or more (R57: total on every frame the scanner can produce). -/
theorem classify_isSome {frame : List Byte} (h : 3 ≤ frame.length) : ∃ v, classify frame = some v := by
  have get : ∀ i, i < frame.length → ∃ b, byteAt frame i = some b := fun i hi =>
    ⟨frame[i], List.getElem?_eq_getElem hi⟩
  obtain ⟨last, h1⟩ := get (frame.length - 1) (by omega)
  obtain ⟨len, h2⟩ := get Config.lenOffset (by simp only [Config.lenOffset]; omega)
  obtain ⟨cmd, h3⟩ := get Config.cmdOffset (by simp only [Config.cmdOffset]; omega)
  obtain ⟨cks, h4⟩ := get (frame.length - 2) (by omega)
  simp only [classify, h1, h2, h3, h4]
  split
  · exact ⟨_, rfl⟩
  · split <;> exact ⟨_, rfl⟩

/-- Everything an iteration that continues can be (R53, R64). -/
theorem resolve_some {buf : List Byte} {es : List Event} {k : Nat} (h : resolve buf = some (es, k)) :
    ∃ s e v, locate buf = .candidate s e ∧ classify (slice buf s e) = some v ∧ es = v.events ∧ k = v.drop s e ∧
      1 ≤ k ∧ k ≤ buf.length := by
  unfold resolve at h
  split at h
  · cases h
  · rename_i s e hc
    rw [Option.map_eq_some_iff] at h
    obtain ⟨v, hv, heq⟩ := h
    obtain ⟨rfl, rfl⟩ := Prod.mk.inj heq
    obtain ⟨len, -, h5, -, rfl, hle⟩ := locate_candidate hc
    refine ⟨s, _, v, hc, hv, rfl, rfl, ?_, ?_⟩ <;> cases v <;> simp only [Verdict.drop] <;> omega

/-- An iteration stops exactly where `locate` waits (R53). -/
theorem resolve_eq_none {buf : List Byte} : resolve buf = none ↔ ∃ w, locate buf = .wait w := by
  unfold resolve
  split
  · rename_i w h; simp [h]
  · rename_i s e h
    obtain ⟨len, -, -, -, rfl, hle⟩ := locate_candidate h
    have hl : 3 ≤ (slice buf s (s + len.toNat + 3)).length := by rw [slice_length hle]; omega
    obtain ⟨v, hv⟩ := classify_isSome hl
    simp [h, hv]

/-- Later bytes never change how a complete candidate is resolved (R91). -/
theorem resolve_append {buf : List Byte} {r : List Event × Nat} (h : resolve buf = some r) (ext : List Byte) :
    resolve (buf ++ ext) = some r := by
  obtain ⟨es, k⟩ := r
  obtain ⟨s, e, v, hc, hv, rfl, rfl, -, -⟩ := resolve_some h
  obtain ⟨len, hs, h5, hb, rfl, hle⟩ := locate_candidate hc
  have hl : locate (buf ++ ext) = .candidate s (s + len.toNat + 3) :=
    locate_of_candidate (findFirst_append_of_some hs ext) (by simp; omega) (byteAt_append_of_some hb ext)
      (by simp; omega)
  simp [resolve, hl, slice_append_of_le hle, hv]

/-- Fuel beyond the buffer's length changes nothing (R53). -/
theorem scanLoop_eq_scan : ∀ (n : Nat) (buf : List Byte), buf.length ≤ n → scanLoop n buf = scan buf := by
  have key : ∀ (n m : Nat) (buf : List Byte), buf.length ≤ n → buf.length ≤ m → scanLoop n buf = scanLoop m buf := by
    intro n
    induction n with
    | zero =>
      intro m buf hn hm
      obtain rfl : buf = [] := List.length_eq_zero_iff.1 (by omega)
      cases m <;> rfl
    | succ n ih =>
      intro m buf hn hm
      cases m with
      | zero =>
        obtain rfl : buf = [] := List.length_eq_zero_iff.1 (by omega)
        rfl
      | succ m =>
        cases hr : resolve buf with
        | none => simp [scanLoop, hr]
        | some r =>
          obtain ⟨es, k⟩ := r
          obtain ⟨-, -, -, -, -, -, -, hk, -⟩ := resolve_some hr
          have hd := ih m (buf.drop k) (by simp; omega) (by simp; omega)
          simp [scanLoop, hr, hd]
  intro n buf h
  exact key n buf.length buf h (Nat.le_refl _)

/-- Where an iteration stops, the scan is over: no events, the buffer as it is. -/
theorem scan_of_stop {buf : List Byte} (h : resolve buf = none) : scan buf = ([], buf) := by
  rw [← scanLoop_eq_scan (buf.length + 1) buf (by omega)]
  simp [scanLoop, h]

/-- Where an iteration resolves a candidate, its events come first and the scan goes on behind the drop. -/
theorem scan_of_resolve {buf : List Byte} {es : List Event} {k : Nat} (h : resolve buf = some (es, k)) :
    scan buf = (es ++ (scan (buf.drop k)).1, (scan (buf.drop k)).2) := by
  obtain ⟨-, -, -, -, -, -, -, hk, hle⟩ := resolve_some h
  rw [← scanLoop_eq_scan (buf.length + 1) buf (by omega)]
  simp only [scanLoop, h]
  rw [scanLoop_eq_scan buf.length (buf.drop k) (by simp)]

/-- Induction over the iterations of a scan. -/
theorem scan_induction {P : List Byte → Prop} (stop : ∀ buf, resolve buf = none → P buf)
    (next : ∀ buf es k, resolve buf = some (es, k) → P (buf.drop k) → P buf) (buf : List Byte) : P buf := by
  generalize hn : buf.length = n
  induction n using Nat.strong_induction_on generalizing buf with
  | _ n ih =>
    cases hr : resolve buf with
    | none => exact stop buf hr
    | some r =>
      obtain ⟨es, k⟩ := r
      obtain ⟨-, -, -, -, -, -, -, hk, hle⟩ := resolve_some hr
      exact next buf es k hr (ih (buf.drop k).length (by simp; omega) _ rfl)

end Sys2Proof.Machine
end

