-- ==== Sys2Proof/Laws/State.lean ====
section
/-! SUPPORT. One lemma per field per update of State. -/

namespace Sys2Proof.Machine

@[simp] theorem State.setBuf_buf (s : State) (v : List Byte) : (s.setBuf v).buf = v := rfl
@[simp] theorem State.setBuf_events (s : State) (v : List Byte) : (s.setBuf v).events = s.events := rfl
@[simp] theorem State.setBuf_work (s : State) (v : List Byte) : (s.setBuf v).work = s.work := rfl
@[simp] theorem State.setBuf_inbox (s : State) (v : List Byte) : (s.setBuf v).inbox = s.inbox := rfl

@[simp] theorem State.setWork_buf (s : State) (w : Work) : (s.setWork w).buf = s.buf := rfl
@[simp] theorem State.setWork_events (s : State) (w : Work) : (s.setWork w).events = s.events := rfl
@[simp] theorem State.setWork_work (s : State) (w : Work) : (s.setWork w).work = w := rfl
@[simp] theorem State.setWork_inbox (s : State) (w : Work) : (s.setWork w).inbox = s.inbox := rfl
@[simp] theorem State.setWork_setWork (s : State) (v w : Work) : (s.setWork v).setWork w = s.setWork w := rfl

@[simp] theorem State.setEvents_buf (s : State) (es : List Event) : (s.setEvents es).buf = s.buf := rfl
@[simp] theorem State.setEvents_events (s : State) (es : List Event) : (s.setEvents es).events = es := rfl
@[simp] theorem State.setEvents_work (s : State) (es : List Event) : (s.setEvents es).work = s.work := rfl
@[simp] theorem State.setEvents_inbox (s : State) (es : List Event) : (s.setEvents es).inbox = s.inbox := rfl

@[simp] theorem State.setInbox_buf (s : State) (ms : List (List Byte)) : (s.setInbox ms).buf = s.buf := rfl
@[simp] theorem State.setInbox_events (s : State) (ms : List (List Byte)) : (s.setInbox ms).events = s.events := rfl
@[simp] theorem State.setInbox_work (s : State) (ms : List (List Byte)) : (s.setInbox ms).work = s.work := rfl
@[simp] theorem State.setInbox_inbox (s : State) (ms : List (List Byte)) : (s.setInbox ms).inbox = ms := rfl

@[simp] theorem State.goTo_buf (s : State) (c : Control) : (s.goTo c).buf = s.buf := rfl
@[simp] theorem State.goTo_events (s : State) (c : Control) : (s.goTo c).events = s.events := rfl
@[simp] theorem State.goTo_work (s : State) (c : Control) : (s.goTo c).work = { s.work with ctrl := c } := rfl
@[simp] theorem State.goTo_inbox (s : State) (c : Control) : (s.goTo c).inbox = s.inbox := rfl

@[simp] theorem State.emit_buf (s : State) (es : List Event) : (s.emit es).buf = s.buf := rfl
@[simp] theorem State.emit_events (s : State) (es : List Event) : (s.emit es).events = s.events ++ es := rfl
@[simp] theorem State.emit_work (s : State) (es : List Event) : (s.emit es).work = s.work := rfl
@[simp] theorem State.emit_inbox (s : State) (es : List Event) : (s.emit es).inbox = s.inbox := rfl

@[simp] theorem State.dropRecord_buf (s : State) : s.dropRecord.buf = s.buf := rfl
@[simp] theorem State.dropRecord_events (s : State) : s.dropRecord.events = s.events := rfl
@[simp] theorem State.dropRecord_work (s : State) : s.dropRecord.work = { s.work with record := none } := rfl
@[simp] theorem State.dropRecord_inbox (s : State) : s.dropRecord.inbox = s.inbox := rfl

@[simp] theorem report_buf (v : Verdict) (s : State) : (report v s).buf = s.buf := rfl
@[simp] theorem report_events (v : Verdict) (s : State) : (report v s).events = s.events ++ v.events := rfl
@[simp] theorem report_inbox (v : Verdict) (s : State) : (report v s).inbox = s.inbox := rfl
@[simp] theorem report_ctrl (v : Verdict) (s : State) : (report v s).work.ctrl = v.next := rfl
@[simp] theorem report_verdict (v : Verdict) (s : State) : (report v s).work.verdict = some v := rfl
@[simp] theorem report_record (v : Verdict) (s : State) :
    (report v s).work.record = if v.decodes then none else s.work.record := rfl
@[simp] theorem report_startIndex (v : Verdict) (s : State) : (report v s).work.startIndex = s.work.startIndex := rfl
@[simp] theorem report_frameEnd (v : Verdict) (s : State) : (report v s).work.frameEnd = s.work.frameEnd := rfl

@[simp] theorem decodePayload_buf (c : Byte) (p : List Byte) (s : State) : (decodePayload c p s).buf = s.buf := rfl
@[simp] theorem decodePayload_events (c : Byte) (p : List Byte) (s : State) :
    (decodePayload c p s).events = s.events ++ decodeEvents c p := rfl
@[simp] theorem decodePayload_work (c : Byte) (p : List Byte) (s : State) :
    (decodePayload c p s).work = { s.work with record := none } := rfl
@[simp] theorem decodePayload_inbox (c : Byte) (p : List Byte) (s : State) : (decodePayload c p s).inbox = s.inbox := rfl

@[simp] theorem andThen_next (s : State) (k : State → Result) : andThen (.next s) k = k s := rfl
@[simp] theorem andThen_fault (f : Fault) (k : State → Result) : andThen (.fault f) k = .fault f := rfl
@[simp] theorem andThen_refused (r : Refusal) (k : State → Result) : andThen (.refused r) k = .refused r := rfl

end Sys2Proof.Machine
end

