-- ==== Sys2Proof/Laws/Ops.lean ====
section
/-! SUPPORT. What each shared operation over State can answer. -/

namespace Sys2Proof.Machine

/-- With the default capacity every chunk fits (R26). -/
theorem fits_default (buf chunk : List Byte) : fits Config.bufCap buf chunk = true := rfl

/-- An append that answers a next state appends, and changes nothing else. -/
theorem appendWithin_next {cap : Option Nat} {chunk : List Byte} {s t : State}
    (h : appendWithin cap chunk s = .next t) : fits cap s.buf chunk = true ∧ t = s.setBuf (s.buf ++ chunk) := by
  unfold appendWithin at h
  split at h
  · rename_i hf; cases h; exact ⟨hf, rfl⟩
  · cases h

/-- A drop answers a next state exactly when the bytes exist (R17). -/
theorem dropHead_next {k : Nat} {s t : State} :
    dropHead k s = .next t ↔ k ≤ s.buf.length ∧ t = s.setBuf (s.buf.drop k) := by
  unfold dropHead
  split
  · rename_i h; simp [h, eq_comm]
  · rename_i h; simp [h]

/-- A drop is never refused. -/
theorem dropHead_not_refused (k : Nat) (s : State) (r : Refusal) : dropHead k s ≠ .refused r := by
  unfold dropHead; split <;> simp

/-- Neither of two operations refused, their sequence is not. -/
theorem andThen_not_refused {first : Result} {k : State → Result} {r : Refusal} (hf : first ≠ .refused r)
    (hk : ∀ s, k s ≠ .refused r) : andThen first k ≠ .refused r := by
  cases first with
  | next s => exact hk s
  | fault _ => simp [andThen]
  | refused _ => exact hf

/-- Receiving bytes is one transaction, and it always completes with the default capacity (R85, R102). -/
theorem receive_eq (chunk : List Byte) (s : State) :
    receive chunk s =
      .next { s with buf := (scan (s.buf ++ chunk)).2, events := (scan (s.buf ++ chunk)).1, work := .idle } := rfl

/-- The whole validator: it stops only where it has no outcome. -/
theorem validateFrame_next {frame : List Byte} {s t : State} :
    validateFrame frame s = .next t ↔
      ∃ v, classify frame = some v ∧ t = report v (s.setWork (s.work.examined frame v)) := by
  unfold validateFrame
  split
  · rename_i v h; simp [h, eq_comm]
  · rename_i h; simp [h]

/-- The validator is never refused. -/
theorem validateFrame_not_refused (frame : List Byte) (s : State) (r : Refusal) :
    validateFrame frame s ≠ .refused r := by
  unfold validateFrame; split <;> simp

/-- The list behind a flag row: its name by the bit, the others as before, in ascending bit order (R80). -/
theorem withFault_eq (present : Bool) (name : FaultName) (faults : List FaultName) :
    withFault present name faults =
      [FaultName.controllerFault, .displayFault, .batteryFault, .currentLimiting].flatMap fun other =>
        if (if other = name then present = true else other ∈ faults) then [other] else [] := by
  simp only [withFault, List.filter_cons, List.filter_nil, List.flatMap_cons, List.flatMap_nil]
  repeat' split
  all_goals simp_all

end Sys2Proof.Machine
end

