-- ==== Sys2Proof/Laws/PerInstr.lean ====
section
/-! SUPPORT. The family `RowTag`, one lemma per operation: the first byte of its message is the place of its row in
spec/opcode_table.json and of no other, and the bytes behind that first byte never read as another row's operation. -/

namespace Sys2Proof.Laws.RowTag

/-- The tag of an operation is a row's place, is its message's first byte, and selects operations of that row only. -/
def Statement (i : Instr) : Prop :=
  rowOf i < rowCount ∧ (∃ bytes, encode i = BitVec.ofNat Config.byteBits (rowOf i) :: bytes) ∧
    ∀ bytes j, decodeOperands (rowOf i) bytes = some j → rowOf j = rowOf i

theorem row_of_some {i j : Instr} {n : Nat} (hi : rowOf i = n) (h : some i = some j) : rowOf j = n :=
  Option.some.inj h ▸ hi

theorem row_of_readNone {i j : Instr} {n : Nat} {bytes : List Byte} (hi : rowOf i = n)
    (h : readNone i bytes = some j) : rowOf j = n := by
  unfold readNone at h; split at h
  · exact row_of_some hi h
  · cases h

theorem row_of_readOne {f : Byte → Instr} {j : Instr} {n : Nat} {bytes : List Byte} (hf : ∀ b, rowOf (f b) = n)
    (h : readOne f bytes = some j) : rowOf j = n := by
  unfold readOne at h; split at h
  · exact row_of_some (hf _) h
  · cases h

theorem row_of_readTwo {f : Byte → Byte → Instr} {j : Instr} {n : Nat} {bytes : List Byte}
    (hf : ∀ b c, rowOf (f b c) = n) (h : readTwo f bytes = some j) : rowOf j = n := by
  unfold readTwo at h; split at h
  · exact row_of_some (hf _ _) h
  · cases h

theorem row_of_readThree {f : Byte → Byte → Byte → Instr} {j : Instr} {n : Nat} {bytes : List Byte}
    (hf : ∀ b c d, rowOf (f b c d) = n) (h : readThree f bytes = some j) : rowOf j = n := by
  unfold readThree at h; split at h
  · exact row_of_some (hf _ _ _) h
  · cases h

theorem row_of_readFixed {k : List Byte → Option Instr} {b : Byte} {j : Instr} {n : Nat} {bytes : List Byte}
    (hk : ∀ rest, k rest = some j → rowOf j = n) (h : readFixed b k bytes = some j) : rowOf j = n := by
  unfold readFixed at h; split at h
  · cases h
  · split at h
    · exact hk _ h
    · cases h

theorem row_of_readCommand {f : Byte → List Byte → Instr} {j : Instr} {n : Nat} {bytes : List Byte}
    (hf : ∀ c p, rowOf (f c p) = n) (h : readCommand f bytes = some j) : rowOf j = n := by
  unfold readCommand at h; split at h
  · exact row_of_some (hf _ _) h
  · cases h

theorem row_of_readLenCommand {f : Byte → Byte → List Byte → Instr} {j : Instr} {n : Nat} {bytes : List Byte}
    (hf : ∀ l c p, rowOf (f l c p) = n) (h : readLenCommand f bytes = some j) : rowOf j = n := by
  unfold readLenCommand at h; split at h
  · exact row_of_some (hf _ _ _) h
  · cases h

theorem row_of_readIndex {f : Nat → Instr} {j : Instr} {n : Nat} {bytes : List Byte}
    (hf : ∀ k, rowOf (f k) = n) (h : readIndex f bytes = some j) : rowOf j = n := by
  unfold readIndex at h; split at h
  · exact row_of_some (hf _) h
  · cases h

theorem row_of_readTwoIndices {f : Nat → Nat → Instr} {j : Instr} {n : Nat} {bytes : List Byte}
    (hf : ∀ k l, rowOf (f k l) = n) (h : readTwoIndices f bytes = some j) : rowOf j = n := by
  unfold readTwoIndices at h; split at h
  · exact row_of_readIndex (hf _) h
  · cases h

theorem row_of_readFrame {f : Byte → Byte → List Byte → Instr} {j : Instr} {n : Nat} {bytes : List Byte}
    (hf : ∀ l r p, rowOf (f l r p) = n) (h : readFrame f bytes = some j) : rowOf j = n := by
  unfold readFrame at h; split at h
  · split at h
    · exact row_of_some (hf _ _ _) h
    · cases h
  · cases h

theorem row_of_readTelem {j : Instr} {bytes : List Byte} (h : readTelem bytes = some j) : rowOf j = 25 := by
  unfold readTelem at h; split at h
  · exact row_of_readFrame (fun _ _ _ => rfl) h
  · cases h

theorem row_of_readRecord {j : Instr} {bytes : List Byte} (h : readRecord bytes = some j) : rowOf j = 48 := by
  unfold readRecord at h; split at h
  · split at h
    · exact row_of_some rfl h
    · cases h
  · cases h

theorem ingest (chunk : List Byte) : Statement (.ingest chunk) :=
  ⟨of_decide_eq_true rfl, ⟨_, rfl⟩, fun bytes _ h => row_of_some (i := .ingest bytes) rfl h⟩

theorem reset : Statement (.reset) :=
  ⟨of_decide_eq_true rfl, ⟨_, rfl⟩, fun _ _ h => row_of_readNone (i := .reset) rfl h⟩

theorem scanAppend (chunk : List Byte) : Statement (.scanAppend chunk) :=
  ⟨of_decide_eq_true rfl, ⟨_, rfl⟩, fun bytes _ h => row_of_some (i := .scanAppend bytes) rfl h⟩

theorem scanFind : Statement (.scanFind) :=
  ⟨of_decide_eq_true rfl, ⟨_, rfl⟩, fun _ _ h => row_of_readNone (i := .scanFind) rfl h⟩

theorem scanHeader (startIndex : Nat) : Statement (.scanHeader startIndex) :=
  ⟨of_decide_eq_true rfl, ⟨_, rfl⟩, fun _ _ h => row_of_readIndex (f := .scanHeader) (fun _ => rfl) h⟩

theorem scanLength (startIndex : Nat) : Statement (.scanLength startIndex) :=
  ⟨of_decide_eq_true rfl, ⟨_, rfl⟩, fun _ _ h => row_of_readIndex (f := .scanLength) (fun _ => rfl) h⟩

theorem scanSlice (startIndex frameEnd : Nat) : Statement (.scanSlice startIndex frameEnd) :=
  ⟨of_decide_eq_true rfl, ⟨_, rfl⟩, fun _ _ h => row_of_readTwoIndices (f := .scanSlice) (fun _ _ => rfl) h⟩

theorem scanResync (startIndex : Nat) : Statement (.scanResync startIndex) :=
  ⟨of_decide_eq_true rfl, ⟨_, rfl⟩, fun _ _ h => row_of_readIndex (f := .scanResync) (fun _ => rfl) h⟩

theorem scanConsume (frameEnd : Nat) : Statement (.scanConsume frameEnd) :=
  ⟨of_decide_eq_true rfl, ⟨_, rfl⟩, fun _ _ h => row_of_readIndex (f := .scanConsume) (fun _ => rfl) h⟩

theorem validate (frame : List Byte) : Statement (.validate frame) :=
  ⟨of_decide_eq_true rfl, ⟨_, rfl⟩, fun bytes _ h => row_of_some (i := .validate bytes) rfl h⟩

theorem valTerm (frame : List Byte) : Statement (.valTerm frame) :=
  ⟨of_decide_eq_true rfl, ⟨_, rfl⟩, fun bytes _ h => row_of_some (i := .valTerm bytes) rfl h⟩

theorem valExtract (frame : List Byte) : Statement (.valExtract frame) :=
  ⟨of_decide_eq_true rfl, ⟨_, rfl⟩, fun bytes _ h => row_of_some (i := .valExtract bytes) rfl h⟩

theorem valPayload (frame : List Byte) : Statement (.valPayload frame) :=
  ⟨of_decide_eq_true rfl, ⟨_, rfl⟩, fun bytes _ h => row_of_some (i := .valPayload bytes) rfl h⟩

theorem valCalc (len cmd : Byte) (payload : List Byte) : Statement (.valCalc len cmd payload) :=
  ⟨of_decide_eq_true rfl, ⟨_, rfl⟩, fun _ _ h => row_of_readLenCommand (f := .valCalc) (fun _ _ _ => rfl) h⟩

theorem valMismatch (calculated cks : Byte) : Statement (.valMismatch calculated cks) :=
  ⟨of_decide_eq_true rfl, ⟨_, rfl⟩, fun _ _ h => row_of_readTwo (f := .valMismatch) (fun _ _ => rfl) h⟩

theorem valAccept (cmd : Byte) (payload : List Byte) : Statement (.valAccept cmd payload) :=
  ⟨of_decide_eq_true rfl, ⟨_, rfl⟩, fun _ _ h => row_of_readCommand (f := .valAccept) (fun _ _ => rfl) h⟩

theorem checksum (len cmd : Byte) (payload : List Byte) : Statement (.checksum len cmd payload) :=
  ⟨of_decide_eq_true rfl, ⟨_, rfl⟩, fun _ _ h => row_of_readLenCommand (f := .checksum) (fun _ _ _ => rfl) h⟩

theorem decode (cmd : Byte) (payload : List Byte) : Statement (.decode cmd payload) :=
  ⟨of_decide_eq_true rfl, ⟨_, rfl⟩, fun _ _ h => row_of_readCommand (f := .decode) (fun _ _ => rfl) h⟩

theorem decodeOther (cmd : Byte) (payload : List Byte) : Statement (.decodeOther cmd payload) :=
  ⟨of_decide_eq_true rfl, ⟨_, rfl⟩, fun _ _ h => row_of_readCommand (f := .decodeOther) (fun _ _ => rfl) h⟩

theorem decodeGuard (cmd : Byte) (payload : List Byte) : Statement (.decodeGuard cmd payload) :=
  ⟨of_decide_eq_true rfl, ⟨_, rfl⟩, fun _ _ h => row_of_readCommand (f := .decodeGuard) (fun _ _ => rfl) h⟩

theorem frame (len rsv : Byte) (payload : List Byte) : Statement (.frame len rsv payload) :=
  ⟨of_decide_eq_true rfl, ⟨_, rfl⟩, fun _ _ h => row_of_readFrame (f := .frame) (fun _ _ _ => rfl) h⟩

theorem frameHeader (rsv len : Byte) : Statement (.frameHeader rsv len) :=
  ⟨of_decide_eq_true rfl, ⟨_, rfl⟩, fun _ _ h =>
    row_of_readFixed (n := 21) (fun _ h => row_of_readTwo (f := .frameHeader) (fun _ _ => rfl) h) h⟩

theorem frameSentinel : Statement (.frameSentinel) :=
  ⟨of_decide_eq_true rfl, ⟨_, rfl⟩, fun _ _ h =>
    row_of_readFixed (n := 22) (fun _ h => row_of_readNone (i := .frameSentinel) rfl h) h⟩

theorem frameReserved (b : Byte) : Statement (.frameReserved b) :=
  ⟨of_decide_eq_true rfl, ⟨_, rfl⟩, fun _ _ h => row_of_readOne (f := .frameReserved) (fun _ => rfl) h⟩

theorem frameTerminator : Statement (.frameTerminator) :=
  ⟨of_decide_eq_true rfl, ⟨_, rfl⟩, fun _ _ h =>
    row_of_readFixed (n := 24) (fun _ h => row_of_readNone (i := .frameTerminator) rfl h) h⟩

theorem telem (rsv : Byte) (payload : List Byte) : Statement (.telem rsv payload) :=
  ⟨of_decide_eq_true rfl, ⟨_, rfl⟩, fun _ _ h => row_of_readTelem h⟩

theorem cmdTelemetry (payload : List Byte) : Statement (.cmdTelemetry payload) :=
  ⟨of_decide_eq_true rfl, ⟨_, rfl⟩, fun _ _ h =>
    row_of_readFixed (n := 26) (fun _ h => row_of_some (i := .cmdTelemetry _) rfl h) h⟩

theorem cmdUnrecognized (cmd : Byte) (payload : List Byte) : Statement (.cmdUnrecognized cmd payload) :=
  ⟨of_decide_eq_true rfl, ⟨_, rfl⟩, fun _ _ h => row_of_readCommand (f := .cmdUnrecognized) (fun _ _ => rfl) h⟩

theorem cmdLen0 : Statement (.cmdLen0) :=
  ⟨of_decide_eq_true rfl, ⟨_, rfl⟩, fun _ _ h =>
    row_of_readFixed (n := 28) (fun _ h => row_of_readNone (i := .cmdLen0) rfl h) h⟩

theorem cmdLen1 (last : Byte) : Statement (.cmdLen1 last) :=
  ⟨of_decide_eq_true rfl, ⟨_, rfl⟩, fun _ _ h =>
    row_of_readFixed (n := 29) (fun _ h => row_of_readOne (f := .cmdLen1) (fun _ => rfl) h) h⟩

theorem telemPayload (payload : List Byte) : Statement (.telemPayload payload) :=
  ⟨of_decide_eq_true rfl, ⟨_, rfl⟩, fun bytes _ h => row_of_some (i := .telemPayload bytes) rfl h⟩

theorem telemOdometer (b0 b1 b2 : Byte) : Statement (.telemOdometer b0 b1 b2) :=
  ⟨of_decide_eq_true rfl, ⟨_, rfl⟩, fun _ _ h => row_of_readThree (f := .telemOdometer) (fun _ _ _ => rfl) h⟩

theorem telemTotalTime (b0 b1 b2 : Byte) : Statement (.telemTotalTime b0 b1 b2) :=
  ⟨of_decide_eq_true rfl, ⟨_, rfl⟩, fun _ _ h => row_of_readThree (f := .telemTotalTime) (fun _ _ _ => rfl) h⟩

theorem telemTripDistance (b0 b1 : Byte) : Statement (.telemTripDistance b0 b1) :=
  ⟨of_decide_eq_true rfl, ⟨_, rfl⟩, fun _ _ h => row_of_readTwo (f := .telemTripDistance) (fun _ _ => rfl) h⟩

theorem telemTripTime (b0 b1 b2 : Byte) : Statement (.telemTripTime b0 b1 b2) :=
  ⟨of_decide_eq_true rfl, ⟨_, rfl⟩, fun _ _ h => row_of_readThree (f := .telemTripTime) (fun _ _ _ => rfl) h⟩

theorem telemRemainingRange (b : Byte) : Statement (.telemRemainingRange b) :=
  ⟨of_decide_eq_true rfl, ⟨_, rfl⟩, fun _ _ h => row_of_readOne (f := .telemRemainingRange) (fun _ => rfl) h⟩

theorem telemReserved12 (b : Byte) : Statement (.telemReserved12 b) :=
  ⟨of_decide_eq_true rfl, ⟨_, rfl⟩, fun _ _ h => row_of_readOne (f := .telemReserved12) (fun _ => rfl) h⟩

theorem telemBatteryPercent (b : Byte) : Statement (.telemBatteryPercent b) :=
  ⟨of_decide_eq_true rfl, ⟨_, rfl⟩, fun _ _ h => row_of_readOne (f := .telemBatteryPercent) (fun _ => rfl) h⟩

theorem telemErrorFlags (b : Byte) : Statement (.telemErrorFlags b) :=
  ⟨of_decide_eq_true rfl, ⟨_, rfl⟩, fun _ _ h => row_of_readOne (f := .telemErrorFlags) (fun _ => rfl) h⟩

theorem errFlagController (flags : Byte) : Statement (.errFlagController flags) :=
  ⟨of_decide_eq_true rfl, ⟨_, rfl⟩, fun _ _ h => row_of_readOne (f := .errFlagController) (fun _ => rfl) h⟩

theorem errFlagDisplay (flags : Byte) : Statement (.errFlagDisplay flags) :=
  ⟨of_decide_eq_true rfl, ⟨_, rfl⟩, fun _ _ h => row_of_readOne (f := .errFlagDisplay) (fun _ => rfl) h⟩

theorem errFlagBattery (flags : Byte) : Statement (.errFlagBattery flags) :=
  ⟨of_decide_eq_true rfl, ⟨_, rfl⟩, fun _ _ h => row_of_readOne (f := .errFlagBattery) (fun _ => rfl) h⟩

theorem errFlagCurrentLimiting (flags : Byte) : Statement (.errFlagCurrentLimiting flags) :=
  ⟨of_decide_eq_true rfl, ⟨_, rfl⟩, fun _ _ h => row_of_readOne (f := .errFlagCurrentLimiting) (fun _ => rfl) h⟩

theorem errFlagIgnored (flags : Byte) : Statement (.errFlagIgnored flags) :=
  ⟨of_decide_eq_true rfl, ⟨_, rfl⟩, fun _ _ h => row_of_readOne (f := .errFlagIgnored) (fun _ => rfl) h⟩

theorem noFaults (flags : Byte) : Statement (.noFaults flags) :=
  ⟨of_decide_eq_true rfl, ⟨_, rfl⟩, fun _ _ h => row_of_readOne (f := .noFaults) (fun _ => rfl) h⟩

theorem evFrameAccepted (cmd : Byte) : Statement (.evFrameAccepted cmd) :=
  ⟨of_decide_eq_true rfl, ⟨_, rfl⟩, fun _ _ h => row_of_readOne (f := .evFrameAccepted) (fun _ => rfl) h⟩

theorem evTerminatorMismatch (expected actual : Byte) : Statement (.evTerminatorMismatch expected actual) :=
  ⟨of_decide_eq_true rfl, ⟨_, rfl⟩, fun _ _ h => row_of_readTwo (f := .evTerminatorMismatch) (fun _ _ => rfl) h⟩

theorem evChecksumMismatch (expected actual : Byte) : Statement (.evChecksumMismatch expected actual) :=
  ⟨of_decide_eq_true rfl, ⟨_, rfl⟩, fun _ _ h => row_of_readTwo (f := .evChecksumMismatch) (fun _ _ => rfl) h⟩

theorem evTelemetryDecoded (record : Machine.TelemetryRecord) : Statement (.evTelemetryDecoded record) :=
  ⟨of_decide_eq_true rfl, ⟨_, rfl⟩, fun _ _ h => row_of_readRecord h⟩

theorem evDecodeError (reason : Machine.DecodeReason) : Statement (.evDecodeError reason) :=
  ⟨of_decide_eq_true rfl, ⟨_, rfl⟩, fun _ _ h =>
    row_of_readFixed (n := 49) (fun _ h => row_of_readNone (i := .evDecodeError _) rfl h) h⟩

end Sys2Proof.Laws.RowTag
end

