-- ==== Sys2Proof/Laws/Step.lean ====
section
/-! SUPPORT. What a step can do, and what a transaction can do. -/

namespace Sys2Proof.Safety

open Sys2Proof.Machine

/-- A step that answers a next state was idle, passed over a message that holds no operation, or performed the oldest
waiting operation. -/
theorem step_next {s t : State} (h : step s = .next t) :
    (s.inbox = [] ∧ t = s) ∨
    (∃ m rest why, s.inbox = m :: rest ∧ decode m = .error why ∧ t = s.setInbox rest) ∨
    ∃ m rest i, s.inbox = m :: rest ∧ decode m = .ok i ∧ exec i (s.setInbox rest) = .next t := by
  unfold step fetch at h
  split at h
  · rename_i hf
    split at hf
    · rename_i hi; cases h; exact .inl ⟨hi, rfl⟩
    · cases hf
  · rename_i m u hf
    split at hf
    · cases hf
    · rename_i m' rest hi
      cases hf
      split at h
      · rename_i i hd; exact .inr (.inr ⟨m, rest, i, hi, hd, h⟩)
      · rename_i why hd; cases h; exact .inr (.inl ⟨m, rest, why, hi, hd, rfl⟩)

/-- No operation is refused. -/
theorem exec_not_refused (i : Instr) (s : State) (r : Refusal) : exec i s ≠ .refused r := by
  cases i with
  | scanResync _ | scanConsume _ => exact andThen_not_refused (dropHead_not_refused _ _ _) fun _ => by simp
  | scanSlice _ _ | validate _ => exact validateFrame_not_refused _ _ _
  | scanFind => simp only [exec, execScanFind]; split <;> simp
  | scanHeader _ => simp only [exec, execScanHeader]; split <;> simp
  | scanLength _ => simp only [exec, execScanLength]; split <;> (try split) <;> simp
  | valTerm _ => simp only [exec, execValTerm]; split <;> (try split) <;> simp
  | valExtract _ => simp only [exec, execValExtract]; split <;> simp
  | valMismatch _ _ => simp only [exec, execValMismatch]; split <;> simp
  | decodeGuard _ _ => simp only [exec, execDecodeGuard]; split <;> simp
  | cmdLen1 _ => simp only [exec, execCmdLen1]; split <;> simp
  | telemPayload _ => simp only [exec, execTelemPayload, setRecord]; split <;> simp
  | _ => intro h; cases h

/-- No step is refused: whatever the inbox holds, the core goes on or faults by name. -/
theorem step_not_refused (s : State) (r : Refusal) : step s ≠ .refused r := by
  unfold step
  split
  · simp
  · split
    · exact exec_not_refused _ _ _
    · simp [passOver]

/-- A transaction that answers a next state was a RESET, or received some bytes. -/
theorem transaction_next {i : Instr} {s t : State} (hi : isTransaction i = true) (h : exec i s = .next t) :
    t = State.reset.setInbox s.inbox ∨ ∃ chunk, receive chunk s = .next t := by
  cases i with
  | reset => cases h; exact .inl rfl
  | ingest _ | frame _ _ _ | frameHeader _ _ | frameSentinel | frameReserved _ | frameTerminator | telem _ _ =>
    exact .inr ⟨_, h⟩
  | _ => exact absurd hi Bool.false_ne_true

/-- Receiving leaves no ephemeral value, keeps the waiting operations, and answers with the scan's results. -/
theorem receive_next {chunk : List Byte} {s t : State} (h : receive chunk s = .next t) :
    t.buf = (scan (s.buf ++ chunk)).2 ∧ t.events = (scan (s.buf ++ chunk)).1 ∧ t.work = .idle ∧ t.inbox = s.inbox := by
  rw [receive_eq] at h
  cases h
  exact ⟨rfl, rfl, rfl, rfl⟩

end Sys2Proof.Safety
end

