-- ==== Sys2Proof/Laws/Transaction.lean ====
section
/-! SUPPORT. Candidates, records, quiescent buffers and appended bytes, in the terms the claims use. -/

namespace Sys2Proof.Safety

open Sys2Proof.Machine

theorem firstSentinel_iff {buf : List Byte} {i : Nat} :
    FirstSentinel buf i ↔ findFirst Config.sentinel buf = some i := findFirst_eq_some.symm

theorem sumBytes_eq_sum (p : List Byte) : sumBytes p = (p.map BitVec.toNat).sum := by
  induction p with
  | nil => rfl
  | cons b rest ih => simp [sumBytes, ih]

/-- R14: a buffer is quiescent exactly where an iteration stops. -/
theorem quiescent_iff {buf : List Byte} : Quiescent buf ↔ resolve buf = none := by
  rw [resolve_eq_none]
  constructor
  · rintro (h | ⟨s, hs, hl⟩ | ⟨s, len, hs, h5, hb, hl⟩)
    · exact ⟨.sentinel, by simp [locate, findFirst_eq_none.2 h]⟩
    · have hlt := findFirst_lt_length (firstSentinel_iff.1 hs)
      have : headerShort buf s = true := headerShort_iff.2 (by omega)
      exact ⟨.header, by simp [locate, firstSentinel_iff.1 hs, this]⟩
    · have : ¬ headerShort buf s = true := by rw [headerShort_iff]; omega
      have he : frameEndOf s len = s + len.toNat + 3 := by simp [frameEndOf, Config.lenOffset]; omega
      exact ⟨.body, by simp [locate, firstSentinel_iff.1 hs, this, byteAt, Config.lenOffset, hb, he, hl]⟩
  · rintro ⟨w, h⟩
    rcases locate_wait h with ⟨-, h⟩ | ⟨s, -, hs, hl⟩ | ⟨s, len, -, hs, h5, hb, hl⟩
    · exact .inl h
    · exact .inr (.inl ⟨s, firstSentinel_iff.2 hs, hl⟩)
    · exact .inr (.inr ⟨s, len, firstSentinel_iff.2 hs, h5, hb, hl⟩)

/-- A scan ends where an iteration stops. -/
theorem resolve_scan (buf : List Byte) : resolve (scan buf).2 = none := by
  induction buf using scan_induction with
  | stop buf h => rw [scan_of_stop h]; exact h
  | next buf es k h ih => rw [scan_of_resolve h]; exact ih

/-- Bytes that come later are scanned behind what the scan of the earlier ones left (R91). -/
theorem scan_append (a b : List Byte) :
    scan (a ++ b) = ((scan a).1 ++ (scan ((scan a).2 ++ b)).1, (scan ((scan a).2 ++ b)).2) := by
  induction a using scan_induction with
  | stop a h => simp [scan_of_stop h]
  | next a es k h ih =>
    obtain ⟨-, -, -, -, -, -, -, -, hk⟩ := resolve_some h
    rw [scan_of_resolve (resolve_append h b), scan_of_resolve h, List.drop_append_of_le_length hk, ih]
    simp [List.append_assoc]

/-- The validator on a candidate (R57, R64): its two bytes, and the outcome they decide. -/
theorem classify_candidate {cand : List Byte} {len : Byte} (h : Candidate cand len) :
    ∃ last cks, cand[len.toNat + 2]? = some last ∧ cand[len.toNat + 1]? = some cks ∧
      byteAt cand (cand.length - 1) = some last ∧ byteAt cand (cand.length - 2) = some cks ∧
      payloadOf cand = (cand.take (len.toNat + 1)).drop 3 ∧
      (checksumOf len len (payloadOf cand)).toNat = dueChecksum cand len ∧
      classify cand =
        if last ≠ 0xFE then some (.terminatorBad last)
        else if checksumOf len len (payloadOf cand) ≠ cks then
          some (.checksumBad (checksumOf len len (payloadOf cand)) cks)
        else some (.valid len (payloadOf cand)) := by
  obtain ⟨hn, -, h2⟩ := h
  have g1 : len.toNat + 2 < cand.length := by omega
  have g2 : len.toNat + 1 < cand.length := by omega
  have e1 : cand.length - 1 = len.toNat + 2 := by omega
  have e2 : cand.length - 2 = len.toNat + 1 := by omega
  have hp : payloadOf cand = (cand.take (len.toNat + 1)).drop 3 := by simp [payloadOf, slice, e2, Config.payloadOffset]
  refine ⟨_, _, List.getElem?_eq_getElem g1, List.getElem?_eq_getElem g2, ?_, ?_, hp, ?_, ?_⟩
  · simp only [byteAt, e1]; exact List.getElem?_eq_getElem g1
  · simp only [byteAt, e2]; exact List.getElem?_eq_getElem g2
  · rw [checksumOf_toNat, sumBytes_eq_sum, hp]; rfl
  · simp only [classify, byteAt, e1, e2, List.getElem?_eq_getElem g1, List.getElem?_eq_getElem g2, Config.lenOffset,
      Config.cmdOffset, h2]
    rfl

/-- An iteration on a candidate behind a prefix without sentinel resolves that candidate (R47 to R52). -/
theorem resolve_behind_prefix {pre cand rest : List Byte} {len : Byte} (hp : Config.sentinel ∉ pre)
    (hC : Candidate cand len) (h5 : 5 ≤ cand.length + rest.length) :
    ∃ v, classify cand = some v ∧
      resolve (pre ++ cand ++ rest) = some (v.events, v.drop pre.length (pre.length + cand.length)) := by
  obtain ⟨v, hv⟩ := classify_isSome (frame := cand) (by rw [hC.size]; omega)
  refine ⟨v, hv, ?_⟩
  have hidx : ∀ j, j < cand.length → (pre ++ cand ++ rest)[pre.length + j]? = cand[j]? := fun j hj => by
    rw [List.append_assoc, List.getElem?_append_right (by omega), List.getElem?_append_left (by omega)]
    congr 1; omega
  have hs : findFirst Config.sentinel (pre ++ cand ++ rest) = some pre.length := by
    refine findFirst_eq_some.2 ⟨(hidx 0 (by rw [hC.size]; omega)).trans hC.sentinel, fun j hj hh => hp ?_⟩
    rw [List.append_assoc, List.getElem?_append_left hj] at hh
    exact List.mem_of_getElem? hh
  have hb : byteAt (pre ++ cand ++ rest) (pre.length + 2) = some len :=
    (hidx 2 (by rw [hC.size]; omega)).trans hC.length
  have he : pre.length + len.toNat + 3 = pre.length + cand.length := by rw [hC.size]; omega
  have hl := locate_of_candidate hs (by simp; omega) hb (by simp; omega)
  rw [he] at hl
  have hsl : slice (pre ++ cand ++ rest) pre.length (pre.length + cand.length) = cand := by
    rw [slice, List.take_append_of_le_length (by simp)]
    simp [List.take_append]
  simp only [resolve, hl, hsl, hv, Option.map_some]

/-- R72 to R81: the record of a payload reads as the payload says. -/
theorem recordReads_of_recordOf {p : List Byte} {r : TelemetryRecord} (h : recordOf p = some r) : RecordReads r p := by
  rcases p with _ | ⟨_, _ | ⟨_, _ | ⟨_, _ | ⟨_, _ | ⟨_, _ | ⟨_, _ | ⟨_, _ | ⟨_, _ | ⟨_, _ | ⟨_, _ | ⟨_, _ | ⟨_, _ | ⟨_, _ | ⟨_,
    _ | ⟨_, _⟩⟩⟩⟩⟩⟩⟩⟩⟩⟩⟩⟩⟩⟩⟩ <;> simp only [recordOf, reduceCtorEq] at h
  cases h
  have hf : ∀ f : Byte, faultList f = faultsByBits f ∧ noFaultsOf f = decide (f.toNat % 16 = 0) := by decide
  constructor
  all_goals try simp [TelemetryRecord.odometer, TelemetryRecord.tripDistance, payloadNat, le24_toNat, le16_toNat]
  · exact (hf _).1
  · rw [(hf _).2]

/-- The decoder on an intact telemetry payload (R69, R71). -/
theorem decodeEvents_telemetry {p : List Byte} (h : 15 ≤ p.length) :
    ∃ r, recordOf p = some r ∧ decodeEvents 0x11 p = [.telemetryDecoded r] := by
  obtain ⟨r, hr⟩ := Option.isSome_iff_exists.1 (recordOf_isSome.2 h)
  refine ⟨r, hr, ?_⟩
  simp [decodeEvents, Config.cmdTelemetry, Config.telemetryMinPayload, Nat.not_lt.2 h, hr]

theorem decodeEvents_other {c : Byte} {p : List Byte} (h : c ≠ 0x11) : decodeEvents c p = [] := if_neg h

/-- The decoder on a payload the guard stops (R71). -/
theorem decodeEvents_short {p : List Byte} (h : p.length < 15) :
    decodeEvents 0x11 p = [.decodeError .insufficientPayload] := by
  simp [decodeEvents, Config.cmdTelemetry, Config.telemetryMinPayload, h]

/-- Accepting a telemetry frame: acceptance, the decoder's event, and no record kept (R63, R83). -/
theorem report_telemetry (s : State) (p : List Byte) :
    report (.valid 0x11 p) s =
      { s with events := s.events ++ .frameAccepted 0x11 :: decodeEvents 0x11 p,
               work := { s.work with verdict := some (.valid 0x11 p), ctrl := .consume, record := none } } := rfl

/-- Accepting a frame of another command: acceptance alone (R63). -/
theorem report_unrecognized (s : State) {c : Byte} (p : List Byte) (h : c ≠ 0x11) :
    report (.valid c p) s =
      { s with events := s.events ++ [.frameAccepted c],
               work := { s.work with verdict := some (.valid c p), ctrl := .consume } } := by
  have hd : (Verdict.valid c p).decodes = false := beq_false_of_ne h
  simp [report, Verdict.events, decodeEvents_other h, hd, State.emit, State.setEvents, State.setWork, Verdict.next]

/-- One internal step, and the rest. -/
theorem runSteps_succ {inside : Control → Bool} {n : Nat} {s u : State} {i : Instr} (h1 : inside s.work.ctrl = true)
    (h2 : nextOperation s.work = some i) (h3 : exec i s = .next u) :
    runSteps inside (n + 1) s = runSteps inside n u := by
  simp [runSteps, h1, h2, h3]

end Sys2Proof.Safety
end

