-- ==== Sys2Proof/Tests/Slice0.lean ====
section
/-! SUPPORT. Tests. Expected results come from spec/95_test_vectors.md (its section is named) or are written out from the
rule named; a witness shows values that meet the hypotheses of the obligation it is named after. -/

namespace Sys2Proof.Tests

open Sys2Proof.Machine Sys2Proof.Safety

/-- The buffer and the events an operation leaves. -/
def observe : Result → Option (List Byte × List Event)
  | .next t => some (t.buf, t.events)
  | _ => none

/-- The ephemeral values an operation leaves. -/
def workOf : Result → Option Work
  | .next t => some t.work
  | _ => none

/-- The record being built that an operation leaves. -/
def builtBy (r : Result) : Option TelemetryRecord := (workOf r).bind Work.record

/-- Right after reset, but with these bytes held. -/
def holding (buf : List Byte) : State := { State.reset with buf := buf }

/-- Right after reset, with these bytes held and the scan about to search them. -/
def scanning (buf : List Byte) : State := { holding buf with work := { Work.idle with ctrl := .find } }

/-- Right after reset, with these operations waiting. -/
def waiting (messages : List (List Byte)) : State := { State.reset with inbox := messages }

/-- The payload of 95_test_vectors.md S4. -/
def payloadS4 : List Byte := List.replicate 13 0x00 ++ [0x2A, 0x05]

/-- The record of 95_test_vectors.md S4. -/
def recordS4 : TelemetryRecord :=
  { TelemetryRecord.blank with batteryPercent := 42, errorFlags := 0x05, faults := [.controllerFault, .batteryFault],
                               noFaults := false }

/-- The frame of 95_test_vectors.md S4, byte by byte. -/
def frameS4 : List Byte := [0xFB, 0x00, 0x11] ++ payloadS4 ++ [0x51, 0xFE]

/-- The payload of 95_test_vectors.md P1. -/
def payloadP1 : List Byte :=
  [0x39, 0x30, 0x00, 0x10, 0x0E, 0x00, 0xFB, 0x00, 0x58, 0x02, 0x00, 0x23, 0xAA, 0x57, 0x0A]

/-- The record R1 of 95_test_vectors.md P1. -/
def recordP1 : TelemetryRecord :=
  { odometerRaw := 12345, totalTime := 3600, tripDistanceRaw := 251, tripTime := 600, remainingRange := 35,
    batteryPercent := 87, errorFlags := 0x0A, faults := [.displayFault, .currentLimiting], noFaults := false }

/-! ### Every constructor's decoding, from words written out from the spec's encodings

The first byte is the row's place in spec/opcode_table.json (log entry 5). -/

theorem test_decode_hostOperations :
    decode [0, 0xFB, 0x99, 0x02] = .ok (.ingest [0xFB, 0x99, 0x02]) ∧ decode [0] = .ok (.ingest []) ∧
    decode [1] = .ok .reset ∧ decode [1, 0] = .error (.badOperands 1) := by decide

theorem test_decode_scanSteps :
    decode [2, 0x01] = .ok (.scanAppend [0x01]) ∧ decode [3] = .ok .scanFind ∧ decode [4, 2] = .ok (.scanHeader 2) ∧
    decode [5, 2] = .ok (.scanLength 2) ∧ decode [6, 2, 5] = .ok (.scanSlice 2 5) ∧
    decode [7, 2] = .ok (.scanResync 2) ∧ decode [8, 30] = .ok (.scanConsume 30) ∧
    decode [8, 0x82, 0x02] = .ok (.scanConsume 258) := by decide

theorem test_decode_validatorSteps :
    decode [9, 0xFB, 0x99, 0x02, 0x04, 0xFE] = .ok (.validate [0xFB, 0x99, 0x02, 0x04, 0xFE]) ∧
    decode [10, 0xFB, 0x00, 0x00] = .ok (.valTerm [0xFB, 0x00, 0x00]) ∧
    decode [11, 0xFB, 0x00, 0x01, 0xFE] = .ok (.valExtract [0xFB, 0x00, 0x01, 0xFE]) ∧
    decode [12, 0xFB, 0x99, 0x02, 0x04, 0xFE] = .ok (.valPayload [0xFB, 0x99, 0x02, 0x04, 0xFE]) ∧
    decode [13, 0x04, 0x04, 0x10, 0x20] = .ok (.valCalc 0x04 0x04 [0x10, 0x20]) ∧
    decode [14, 0x38, 0x39] = .ok (.valMismatch 0x38 0x39) ∧
    decode [15, 0x03, 0x7F] = .ok (.valAccept 0x03 [0x7F]) := by decide

theorem test_decode_functions :
    decode [16, 0x01, 0x02, 0x03] = .ok (.checksum 0x01 0x02 [0x03]) ∧
    decode [17, 0x12, 0x00] = .ok (.decode 0x12 [0x00]) ∧ decode [18, 0x12, 0x00] = .ok (.decodeOther 0x12 [0x00]) ∧
    decode [19, 0x11, 0x00] = .ok (.decodeGuard 0x11 [0x00]) := by decide

/-- R28, R33, S4: `FB 00 11 <13 zeros> 2A 05 51 FE`. -/
theorem test_decode_frames :
    decode ([20, 0xFB, 0x00, 0x11] ++ List.replicate 13 0x00 ++ [0x2A, 0x05, 0x51, 0xFE]) =
      .ok (.frame 0x11 0x00 payloadS4) ∧
    decode ([25, 0xFB, 0x00, 0x11] ++ List.replicate 13 0x00 ++ [0x2A, 0x05, 0x51, 0xFE]) =
      .ok (.telem 0x00 payloadS4) ∧
    decode [20, 0xFB, 0x00, 0x04, 0x10, 0x20, 0x39, 0xFE] = .error (.badOperands 20) ∧
    decode [21, 0xFB, 0x00, 0x11] = .ok (.frameHeader 0x00 0x11) ∧ decode [21, 0xFE, 0x00, 0x11] = .error (.badOperands 21) ∧
    decode [22, 0xFB] = .ok .frameSentinel ∧ decode [23, 0x99] = .ok (.frameReserved 0x99) ∧
    decode [24, 0xFE] = .ok .frameTerminator := by decide

theorem test_decode_commandBytes :
    decode (26 :: 0x11 :: payloadS4) = .ok (.cmdTelemetry payloadS4) ∧
    decode [27, 0x03, 0x7F] = .ok (.cmdUnrecognized 0x03 [0x7F]) ∧ decode [28, 0x00] = .ok .cmdLen0 ∧
    decode [29, 0x01, 0x33] = .ok (.cmdLen1 0x33) := by decide

theorem test_decode_payloadFields :
    decode (30 :: payloadS4) = .ok (.telemPayload payloadS4) ∧
    decode [31, 0x39, 0x30, 0x00] = .ok (.telemOdometer 0x39 0x30 0x00) ∧
    decode [32, 0x10, 0x0E, 0x00] = .ok (.telemTotalTime 0x10 0x0E 0x00) ∧
    decode [33, 0xFB, 0x00] = .ok (.telemTripDistance 0xFB 0x00) ∧
    decode [34, 0x58, 0x02, 0x00] = .ok (.telemTripTime 0x58 0x02 0x00) ∧
    decode [35, 0x23] = .ok (.telemRemainingRange 0x23) ∧ decode [36, 0xAA] = .ok (.telemReserved12 0xAA) ∧
    decode [37, 0x57] = .ok (.telemBatteryPercent 0x57) ∧ decode [38, 0x0A] = .ok (.telemErrorFlags 0x0A) := by decide

theorem test_decode_errorFlags :
    decode [39, 0x05] = .ok (.errFlagController 0x05) ∧ decode [40, 0x0A] = .ok (.errFlagDisplay 0x0A) ∧
    decode [41, 0x05] = .ok (.errFlagBattery 0x05) ∧ decode [42, 0x0A] = .ok (.errFlagCurrentLimiting 0x0A) ∧
    decode [43, 0xF0] = .ok (.errFlagIgnored 0xF0) ∧ decode [44, 0xF0] = .ok (.noFaults 0xF0) := by decide

theorem test_decode_events :
    decode [45, 0x02] = .ok (.evFrameAccepted 0x02) ∧ decode [46, 0xFE, 0xFD] = .ok (.evTerminatorMismatch 0xFE 0xFD) ∧
    decode [47, 0x38, 0x39] = .ok (.evChecksumMismatch 0x38 0x39) ∧
    decode [48, 0x39, 0x30, 0x00, 0x10, 0x0E, 0x00, 0xFB, 0x00, 0x58, 0x02, 0x00, 0x23, 0x00, 0x57, 0x0A] =
      .ok (.evTelemetryDecoded recordP1) ∧
    decode [49, 0x00] = .ok (.evDecodeError .insufficientPayload) := by decide

theorem test_decode_rejectsByName :
    decode [] = .error .emptyMessage ∧ decode [50] = .error (.noSuchRow 50) ∧
    decode [31, 0x39, 0x30] = .error (.badOperands 31) := by decide

/-- R89, R90, R100: a message that holds no operation is no call of the block, which keeps what it holds. -/
theorem test_step_passesOver :
    step { holding [0xFB, 0x00] with inbox := [[50], [1]] } = .next { holding [0xFB, 0x00] with inbox := [[1]] } := rfl

/-! ### Operands a row does not admit -/

/-- R50: a candidate is `L + 3` bytes that begin with the sentinel. -/
theorem test_wf_candidates :
    decode [9, 0xFB, 0x99, 0x02, 0x04] = .error (.illFormed 9) ∧ decode [10, 0xFE, 0x00, 0x00] = .error (.illFormed 10) ∧
    decode [11] = .error (.illFormed 11) ∧ decode [12, 0xFB, 0x00, 0x01, 0xFE, 0x77] = .error (.illFormed 12) := by decide

theorem test_wf_decoder :
    decode [18, 0x11, 0x00] = .error (.illFormed 18) ∧ decode [19, 0x12] = .error (.illFormed 19) ∧
    decode (19 :: 0x11 :: payloadS4) = .error (.illFormed 19) := by decide

theorem test_wf_payloadLengths :
    (Instr.frame 0x04 0x00 [0x10]).wf = false ∧ (Instr.telem 0x00 [0x10]).wf = false ∧
    decode [26, 0x11] = .error (.illFormed 26) ∧ decode [30, 0x00] = .error (.illFormed 30) := by decide

theorem test_wf_commands :
    decode (27 :: 0x11 :: payloadS4) = .error (.illFormed 27) ∧ decode [27, 0x01] = .error (.illFormed 27) ∧
    decode [27, 0x04, 0x10] = .error (.illFormed 27) := by decide

theorem test_wf_errorFlags :
    decode [39, 0xFE] = .error (.illFormed 39) ∧ decode [40, 0xFD] = .error (.illFormed 40) ∧
    decode [41, 0xFB] = .error (.illFormed 41) ∧ decode [42, 0xF7] = .error (.illFormed 42) ∧
    decode [44, 0x01] = .error (.illFormed 44) := by decide

/-- R43: `expected` is always 0xFE and `actual` never; a checksum mismatch reports two different bytes. -/
theorem test_wf_events :
    decode [46, 0xFE, 0xFE] = .error (.illFormed 46) ∧ decode [46, 0xFD, 0x00] = .error (.illFormed 46) ∧
    decode [47, 0x38, 0x38] = .error (.illFormed 47) ∧
    (Instr.evTelemetryDecoded { TelemetryRecord.blank with errorFlags := 0x01 }).wf = false := by decide

/-! ### Host operations and bytes on the wire -/

/-- 95_test_vectors.md S4. -/
theorem test_ingest_telemetry :
    observe (exec (.ingest frameS4) State.reset) = some ([], [.frameAccepted 0x11, .telemetryDecoded recordS4]) := by
  decide

/-- 95_test_vectors.md P2. -/
theorem test_ingest_resynchronises :
    observe (exec (.ingest [0x01, 0x02, 0xFB, 0xFB, 0x00, 0x02, 0x04, 0xFE]) State.reset) =
      some ([], [.terminatorMismatch 0xFE 0x00, .frameAccepted 0x02]) := by decide

/-- 95_test_vectors.md P5: the buffer of an interrupted frame is discarded and nothing is reported. -/
theorem test_reset_discards :
    observe (exec .reset (holding [0xFB, 0x00, 0x11, 0x00, 0x00, 0x00, 0x00, 0x00, 0x00, 0x00])) = some ([], []) := by
  decide

/-- 95_test_vectors.md 2.3: `FB 00 04 10 20 38 FE`. -/
theorem test_frame_accepted :
    observe (exec (.frame 0x04 0x00 [0x10, 0x20]) State.reset) = some ([], [.frameAccepted 0x04]) := by decide

/-- 95_test_vectors.md P5: the prefix goes with the frame. -/
theorem test_telem_dropsPrefix :
    observe (exec (.telem 0x00 payloadS4) (holding [0x00, 0x2A, 0x05, 0x51, 0xFE])) =
      some ([], [.frameAccepted 0x11, .telemetryDecoded recordS4]) := by decide

/-- 95_test_vectors.md P1 (b): the header waits. -/
theorem test_frameHeader_waits :
    observe (exec (.frameHeader 0x00 0x11) State.reset) = some ([0xFB, 0x00, 0x11], []) := by decide

/-- 95_test_vectors.md 2.2: a sentinel behind noise. -/
theorem test_frameSentinel_waits : observe (exec .frameSentinel (holding [0x00])) = some ([0x00, 0xFB], []) := by decide

/-- R30: the reserved byte may be the sentinel value. -/
theorem test_frameReserved_waits : observe (exec (.frameReserved 0xFB) (holding [0xFB])) = some ([0xFB, 0xFB], []) := by
  decide

/-- 95_test_vectors.md P1 (b): the terminator completes the frame. -/
theorem test_frameTerminator_completes :
    observe (exec .frameTerminator (holding ([0xFB, 0x00, 0x11] ++ payloadP1 ++ [0x2C]))) =
      some ([], [.frameAccepted 0x11, .telemetryDecoded recordP1]) := by decide

/-! ### FrameScanner -/

theorem test_scanAppend : observe (exec (.scanAppend [0x04, 0x05]) (holding [0x01])) = some ([0x01, 0x04, 0x05], []) := by
  decide

/-- The trace of 95_test_vectors.md P2. -/
theorem test_scanFind_first :
    (workOf (exec .scanFind (holding [0x01, 0x02, 0xFB, 0xFB, 0x00]))).map (fun w => (w.startIndex, w.ctrl)) =
      some (some 2, .header) := by decide

/-- 95_test_vectors.md 2.2: a terminator value alone means nothing. -/
theorem test_scanFind_none :
    (workOf (exec .scanFind (holding [0x00, 0x01, 0xFE]))).map Work.ctrl = some (.stopped .sentinel) := by decide

/-- 95_test_vectors.md 2.2: four bytes wait, five do not. -/
theorem test_scanHeader :
    (workOf (exec (.scanHeader 0) (holding [0xFB, 0x00, 0x00, 0xFE]))).map Work.ctrl = some (.stopped .header) ∧
    (workOf (exec (.scanHeader 0) (holding [0xFB, 0x00, 0x00, 0xFE, 0x77]))).map Work.ctrl = some .length := by decide

/-- The trace of 95_test_vectors.md P2: `L = 00`, `e = 5`. -/
theorem test_scanLength_complete :
    (workOf (exec (.scanLength 2) (holding [0x01, 0x02, 0xFB, 0xFB, 0x00, 0x02, 0x04, 0xFE]))).map
      (fun w => (w.len, w.frameEnd, w.ctrl)) = some (0x00, 5, .slice) := by decide

/-- 95_test_vectors.md 2.2: five bytes of twenty. -/
theorem test_scanLength_waits :
    (workOf (exec (.scanLength 0) (holding [0xFB, 0x00, 0x11, 0x39, 0x30]))).map (fun w => (w.frameEnd, w.ctrl)) =
      some (20, .stopped .body) := by decide

/-- The trace of 95_test_vectors.md P2: the candidate `FB FB 00`. -/
theorem test_scanSlice :
    observe (exec (.scanSlice 2 5) (holding [0x01, 0x02, 0xFB, 0xFB, 0x00, 0x02])) =
      some ([0x01, 0x02, 0xFB, 0xFB, 0x00, 0x02], [.terminatorMismatch 0xFE 0x00]) := by decide

/-- The trace of 95_test_vectors.md P2: `s + 1 = 3` bytes dropped. -/
theorem test_scanResync :
    observe (exec (.scanResync 2) (holding [0x01, 0x02, 0xFB, 0xFB, 0x00])) = some ([0xFB, 0x00], []) := by decide

/-- The trace of 95_test_vectors.md P6: `e = 7` bytes dropped. -/
theorem test_scanConsume :
    observe (exec (.scanConsume 7) (holding [0x00, 0x0E, 0xFB, 0x00, 0x02, 0x04, 0xFE, 0xFB, 0x00])) =
      some ([0xFB, 0x00], []) := by decide

/-! ### FrameValidator and ChecksumEngine -/

/-- 95_test_vectors.md 2.3: both wrong, only the terminator is reported. -/
theorem test_validate_terminatorFirst :
    observe (exec (.validate [0xFB, 0x99, 0x02, 0x05, 0xFD]) State.reset) = some ([], [.terminatorMismatch 0xFE 0xFD]) := by
  decide

/-- 95_test_vectors.md S5: the checksum is off by one. -/
theorem test_validate_checksum :
    observe (exec (.validate ([0xFB, 0x00, 0x11] ++ payloadS4 ++ [0x52, 0xFE])) State.reset) =
      some ([], [.checksumMismatch 0x51 0x52]) := by decide

theorem test_valTerm :
    observe (exec (.valTerm [0xFB, 0x99, 0x02, 0x04, 0xFD]) State.reset) = some ([], [.terminatorMismatch 0xFE 0xFD]) ∧
    (workOf (exec (.valTerm [0xFB, 0x99, 0x02, 0x04, 0xFE]) State.reset)).map Work.ctrl = some .extract := by decide

theorem test_valExtract :
    (workOf (exec (.valExtract [0xFB, 0x00, 0x04, 0x10, 0x20, 0x38, 0xFE]) State.reset)).map
      (fun w => (w.cmd, w.cks)) = some (0x04, 0x38) := by decide

/-- R60, R36: no byte lies between command and checksum for `L = 2` and `L = 1`. -/
theorem test_valPayload :
    (workOf (exec (.valPayload [0xFB, 0x00, 0x04, 0x10, 0x20, 0x38, 0xFE]) State.reset)).map Work.payload =
      some [0x10, 0x20] ∧
    (workOf (exec (.valPayload [0xFB, 0x00, 0x01, 0xFE]) State.reset)).map Work.payload = some [] := by decide

theorem test_valCalc :
    (workOf (exec (.valCalc 0x04 0x04 [0x10, 0x20]) State.reset)).map Work.calculated = some 0x38 := by decide

/-- 95_test_vectors.md 2.3: `CM{38, 39}`. -/
theorem test_valMismatch :
    observe (exec (.valMismatch 0x38 0x39) State.reset) = some ([], [.checksumMismatch 0x38 0x39]) := by decide

/-- 95_test_vectors.md P3: `FA{03}`. -/
theorem test_valAccept : observe (exec (.valAccept 0x03 [0x7F]) State.reset) = some ([], [.frameAccepted 0x03]) := by decide

/-- 95_test_vectors.md 2.1: truncation of a sum above 255. -/
theorem test_checksum_truncates :
    (workOf (exec (.checksum 0xFF 0xFF [0xFF, 0xFF]) State.reset)).map Work.calculated = some 0xFC := by decide

/-- 95_test_vectors.md 2.1: length and command are separate operands. -/
theorem test_checksum_operands :
    (workOf (exec (.checksum 0x01 0x02 [0x03]) State.reset)).map Work.calculated = some 0x06 := by decide

/-! ### TelemetryDecoder -/

/-- 95_test_vectors.md 2.4: bytes beyond offset 14 are ignored. -/
theorem test_decode_record :
    observe (exec (.decode 0x11 (payloadP1 ++ [0x77, 0x88])) State.reset) =
      some ([], [.telemetryDecoded recordP1]) := by decide

/-- 95_test_vectors.md 2.4: only ignored bits set. -/
theorem test_decode_ignoredBits :
    observe (exec (.decode 0x11 [0x01, 0, 0, 0, 0, 0x01, 0x0A, 0, 0, 0x01, 0, 0x64, 0, 0x64, 0xF0]) State.reset) =
      some ([], [.telemetryDecoded { odometerRaw := 1, totalTime := 65536, tripDistanceRaw := 10, tripTime := 256,
                                     remainingRange := 100, batteryPercent := 100, errorFlags := 0xF0, faults := [],
                                     noFaults := true }]) := by decide

/-- 95_test_vectors.md 2.4: the exact tenths, `12345` is 1234.5 and `251` is 25.1. -/
theorem test_decode_tenths :
    tenths recordP1.odometerRaw.toNat = (1234, 5) ∧ tenths recordP1.tripDistanceRaw.toNat = (25, 1) := by decide

/-- 95_test_vectors.md 2.4, last row. -/
theorem test_decodeOther :
    observe (exec (.decodeOther 0x12 (List.replicate 15 0x00)) State.reset) = some ([], []) := by decide

/-- 95_test_vectors.md 2.4: 14 bytes fail, 15 pass. -/
theorem test_decodeGuard :
    observe (exec (.decodeGuard 0x11 (List.replicate 14 0x00)) State.reset) =
      some ([], [.decodeError .insufficientPayload]) ∧
    observe (exec (.decodeGuard 0x11 (List.replicate 15 0x00)) State.reset) = some ([], []) := by decide

/-! ### What the command byte decides -/

/-- 95_test_vectors.md S4. -/
theorem test_cmdTelemetry :
    observe (exec (.cmdTelemetry payloadS4) State.reset) =
      some ([], [.frameAccepted 0x11, .telemetryDecoded recordS4]) := by decide

/-- 95_test_vectors.md P3. -/
theorem test_cmdUnrecognized :
    observe (exec (.cmdUnrecognized 0x03 [0x7F]) State.reset) = some ([], [.frameAccepted 0x03]) := by decide

/-- 95_test_vectors.md 2.2, last row. -/
theorem test_cmdLen0 : observe (exec .cmdLen0 State.reset) = some ([], [.terminatorMismatch 0xFE 0x00]) := by decide

/-- 95_test_vectors.md 2.3: the two rows of `L = 1`. -/
theorem test_cmdLen1 :
    observe (exec (.cmdLen1 0xFE) State.reset) = some ([], [.checksumMismatch 0x02 0x01]) ∧
    observe (exec (.cmdLen1 0x33) State.reset) = some ([], [.terminatorMismatch 0xFE 0x33]) := by decide

/-! ### Payload fields and error flags -/

/-- 95_test_vectors.md P1. -/
theorem test_telemPayload :
    builtBy (exec (.telemPayload payloadP1) State.reset) = some recordP1 := by decide

theorem test_telemOdometer :
    (builtBy (exec (.telemOdometer 0x39 0x30 0x00) State.reset)).map TelemetryRecord.odometerRaw = some 12345 := by decide

theorem test_telemTotalTime :
    (builtBy (exec (.telemTotalTime 0x00 0x00 0x01) State.reset)).map TelemetryRecord.totalTime = some 65536 := by decide

theorem test_telemTripDistance :
    (builtBy (exec (.telemTripDistance 0xFB 0x00) State.reset)).map TelemetryRecord.tripDistanceRaw = some 251 := by decide

theorem test_telemTripTime :
    (builtBy (exec (.telemTripTime 0x58 0x02 0x00) State.reset)).map TelemetryRecord.tripTime = some 600 := by decide

theorem test_telemRemainingRange :
    (builtBy (exec (.telemRemainingRange 0x23) State.reset)).map TelemetryRecord.remainingRange = some 35 := by decide

theorem test_telemReserved12 :
    (workOf (exec (.telemReserved12 0xAA) State.reset)).map Work.record = some none := by decide

/-- 95_test_vectors.md 2.4: a battery value above 100 passes. -/
theorem test_telemBatteryPercent :
    (builtBy (exec (.telemBatteryPercent 0x65) State.reset)).map TelemetryRecord.batteryPercent = some 101 := by decide

theorem test_telemErrorFlags :
    (builtBy (exec (.telemErrorFlags 0xF0) State.reset)).map TelemetryRecord.errorFlags = some 0xF0 := by decide

/-- 95_test_vectors.md 2.4, error-flag table. -/
theorem test_errorFlagRows :
    (builtBy (exec (.errFlagController 0x05) State.reset)).map TelemetryRecord.faults = some [.controllerFault] ∧
    (builtBy (exec (.errFlagDisplay 0x02) State.reset)).map TelemetryRecord.faults = some [.displayFault] ∧
    (builtBy (exec (.errFlagBattery 0x05) State.reset)).map TelemetryRecord.faults = some [.batteryFault] ∧
    (builtBy (exec (.errFlagCurrentLimiting 0x08) State.reset)).map TelemetryRecord.faults =
      some [.currentLimiting] ∧
    builtBy (exec (.errFlagIgnored 0xF0) State.reset) = none := by decide

/-- R83: a decoded record with the controller fault leaves nothing behind that a later flag row could add to. -/
theorem test_decode_keepsNothing :
    (builtBy (andThen (exec (.decode 0x11 (List.replicate 14 0x00 ++ [0x01])) State.reset)
      (exec (.errFlagDisplay 0x02)))).map TelemetryRecord.faults = some [.displayFault] := by decide

/-- 95_test_vectors.md 2.4, error-flag table. -/
theorem test_noFaults :
    (builtBy (exec (.noFaults 0xF0) State.reset)).map TelemetryRecord.noFaults = some true ∧
    (builtBy (exec (.noFaults 0x08) State.reset)).map TelemetryRecord.noFaults = some false := by decide

/-- R81 under the other reading of D10. -/
theorem test_noFaults_wholeByte : noFaultsWith false 0xF0 = false ∧ noFaultsWith false 0x00 = true := by decide

/-- R102: `emit` appends. -/
theorem test_events :
    observe (exec (.evFrameAccepted 0x02) State.reset) = some ([], [.frameAccepted 0x02]) ∧
    observe (exec (.evTerminatorMismatch 0xFE 0xFD) State.reset) = some ([], [.terminatorMismatch 0xFE 0xFD]) ∧
    observe (exec (.evChecksumMismatch 0x38 0x39) State.reset) = some ([], [.checksumMismatch 0x38 0x39]) ∧
    observe (exec (.evTelemetryDecoded recordP1) State.reset) = some ([], [.telemetryDecoded recordP1]) ∧
    observe (exec (.evDecodeError .insufficientPayload) State.reset) =
      some ([], [.decodeError .insufficientPayload]) := by decide

/-! ### Stepping -/

/-- A step takes the oldest operation; the later one waits. -/
theorem test_step_runsOldest :
    observe (step (waiting [[0, 0x01, 0x02], [1]])) = some ([0x01, 0x02], []) := by decide

/-- What `withFetchWord` places is what the next step performs. -/
theorem test_step_placedWord :
    observe (step (State.reset.withFetchWord 24 0xFB0011)) = some ([0xFB, 0x00, 0x11], []) := by decide

/-! ### Witnesses: values that meet the hypotheses of the obligations -/

set_option maxRecDepth 20000 in
theorem witness_DecodeOfEncode :
    (Instr.frame 0xFF 0xFB (List.replicate 253 0x01)).wf = true ∧ (Instr.scanConsume 100000).wf = true := by decide

theorem witness_DecodedOperationsAreWellFormed : decode [27, 0x02] = .ok (.cmdUnrecognized 0x02 []) := by decide

theorem witness_StepRunsDecodedOperation :
    (waiting [[0, 0xFB], [1]]).inbox = [0, 0xFB] :: [[1]] ∧ decode [0, 0xFB] = .ok (.ingest [0xFB]) := by decide

theorem witness_StepWithoutOperation :
    State.reset.inbox = [] ∧ (waiting [[50]]).inbox = [50] :: [] ∧ decode [50] = .error (.noSuchRow 50) := by decide

theorem witness_IngestIsItsSteps :
    { holding [0xFB] with events := [.frameAccepted 0x02] }.buf = (holding [0xFB]).buf ∧
    exec (.ingest [0x00]) (holding [0xFB]) = .next (holding [0xFB, 0x00]) ∧
    exec (.ingest [0x00]) { holding [0xFB] with events := [.frameAccepted 0x02] } = .next (holding [0xFB, 0x00]) :=
  ⟨rfl, rfl, rfl⟩

theorem witness_StopReasonIsShownByBuffer_sentinel :
    ∃ u, (scanning [0x00]).work.ctrl = .find ∧ runSteps inScanner 1 (scanning [0x00]) = .next u ∧
      u.work.ctrl = .stopped .sentinel := ⟨_, rfl, rfl, rfl⟩

theorem witness_StopReasonIsShownByBuffer_header :
    ∃ u, (scanning [0xFB, 0x00, 0x00, 0xFE]).work.ctrl = .find ∧
      runSteps inScanner 2 (scanning [0xFB, 0x00, 0x00, 0xFE]) = .next u ∧ u.work.ctrl = .stopped .header :=
  ⟨_, rfl, rfl, rfl⟩

theorem witness_StopReasonIsShownByBuffer_body :
    ∃ u, (scanning (frameS4.take 19)).work.ctrl = .find ∧
      runSteps inScanner 3 (scanning (frameS4.take 19)) = .next u ∧ u.work.ctrl = .stopped .body :=
  ⟨_, rfl, rfl, rfl⟩

theorem witness_ChunkingInvariance :
    Quiescent State.reset.buf ∧
    [frameS4].flatten = [frameS4.take 2, [], (frameS4.drop 2).take 17, frameS4.drop 19].flatten :=
  ⟨.inl (by decide), by decide⟩

theorem witness_FirstSentinel : FirstSentinel [0x01, 0xFB, 0xFB] 1 ∧ FirstSentinel [0xFB] 0 :=
  ⟨⟨rfl, by decide⟩, ⟨rfl, by decide⟩⟩

/-- The three forms of a buffer at rest: the last has 19 bytes where 20 are needed. -/
theorem witness_Quiescent :
    Quiescent [0x01, 0x02] ∧ Quiescent [0xFB, 0x00, 0x00, 0xFE] ∧ Quiescent (frameS4.take 19) :=
  ⟨.inl (by decide), .inr (.inl ⟨0, ⟨rfl, by decide⟩, by decide⟩),
    .inr (.inr ⟨0, 0x11, ⟨rfl, by decide⟩, by decide, by decide, by decide⟩)⟩

theorem witness_StepKeepsRest :
    AtRest (waiting [[0, 0x01]]) ∧ HostOnly (waiting [[0, 0x01]]).inbox ∧ ∃ t, step (waiting [[0, 0x01]]) = .next t := by
  refine ⟨⟨.inl (by decide), rfl⟩, fun m hm i hi => ?_, _, rfl⟩
  obtain rfl : m = [0, 0x01] := List.mem_singleton.1 hm
  obtain rfl : Instr.ingest [0x01] = i := Except.ok.inj hi
  rfl

set_option maxRecDepth 20000 in
/-- 257 bytes of the longest span, 258, wait. -/
theorem witness_HeldSpanBounded :
    observe (exec (.ingest ([0xFB, 0x00, 0xFF] ++ List.replicate 254 0x00)) State.reset) =
      some ([0xFB, 0x00, 0xFF] ++ List.replicate 254 0x00, []) ∧
    FirstSentinel ([0xFB, 0x00, 0xFF] ++ List.replicate 254 0x00) 0 :=
  ⟨by decide, rfl, by decide⟩

theorem witness_AcceptedCommandsAtLeastTwo :
    ∃ t, exec (.ingest [0xFB, 0x99, 0x02, 0x04, 0xFE]) State.reset = .next t ∧ .frameAccepted 0x02 ∈ t.events :=
  ⟨_, rfl, by decide⟩

theorem witness_IngestNeverReportsDecodeError : ∃ t, exec (.ingest frameS4) State.reset = .next t := ⟨_, rfl⟩

theorem witness_MismatchEventsDiffer_terminator :
    ∃ t, exec (.ingest [0xFB, 0x99, 0x02, 0x05, 0xFD]) State.reset = .next t ∧
      .terminatorMismatch 0xFE 0xFD ∈ t.events := ⟨_, rfl, by decide⟩

theorem witness_MismatchEventsDiffer_checksum :
    ∃ t, exec (.ingest [0xFB, 0x99, 0x02, 0x05, 0xFE]) State.reset = .next t ∧
      .checksumMismatch 0x04 0x05 ∈ t.events := ⟨_, rfl, by decide⟩

theorem witness_TelemetryFollowsAcceptance :
    ∃ t, exec (.ingest frameS4) State.reset = .next t ∧ t.events[1]? = some (.telemetryDecoded recordS4) ∧
      t.events[0]? = some (.frameAccepted 0x11) := ⟨_, rfl, by decide, by decide⟩

theorem witness_NoSentinelKeepsBytes : (0xFB : Byte) ∉ State.reset.buf ++ [0x01, 0x02, 0x03] := by decide

theorem witness_IncompleteCandidateWaits_header :
    FirstSentinel (State.reset.buf ++ [0xFB, 0x00, 0x00, 0xFE]) 0 ∧ State.reset.buf.length + 4 < 0 + 5 :=
  ⟨⟨rfl, by decide⟩, by decide⟩

theorem witness_IncompleteCandidateWaits_body :
    FirstSentinel (State.reset.buf ++ frameS4.take 19) 0 ∧ (State.reset.buf ++ frameS4.take 19)[0 + 2]? = some 0x11 ∧
    State.reset.buf.length + (frameS4.take 19).length < 0 + (0x11 : Byte).toNat + 3 :=
  ⟨⟨rfl, by decide⟩, by decide, by decide⟩

/-- The trace of 95_test_vectors.md P2, with the prefix `01 02`. -/
theorem witness_BadTerminatorSkipsOneByte :
    State.reset.buf ++ [0x01, 0x02, 0xFB, 0xFB, 0x00, 0x02, 0x04] =
      [0x01, 0x02] ++ [0xFB, 0xFB, 0x00] ++ [0x02, 0x04] ∧
    (0xFB : Byte) ∉ ([0x01, 0x02] : List Byte) ∧ Candidate [0xFB, 0xFB, 0x00] 0x00 ∧
    5 ≤ ([0xFB, 0xFB, 0x00] : List Byte).length + ([0x02, 0x04] : List Byte).length ∧
    ([0xFB, 0xFB, 0x00] : List Byte)[(0x00 : Byte).toNat + 2]? = some 0x00 ∧ (0x00 : Byte) ≠ 0xFE :=
  ⟨rfl, by decide, ⟨rfl, rfl, rfl⟩, by decide, rfl, by decide⟩

/-- 95_test_vectors.md 2.3: `FB 00 01 FE 77`. -/
theorem witness_BadChecksumDropsSpan :
    State.reset.buf ++ [0xFB, 0x00, 0x01, 0xFE, 0x77] = [] ++ [0xFB, 0x00, 0x01, 0xFE] ++ [0x77] ∧
    (0xFB : Byte) ∉ ([] : List Byte) ∧ Candidate [0xFB, 0x00, 0x01, 0xFE] 0x01 ∧
    5 ≤ ([0xFB, 0x00, 0x01, 0xFE] : List Byte).length + ([0x77] : List Byte).length ∧
    ([0xFB, 0x00, 0x01, 0xFE] : List Byte)[(0x01 : Byte).toNat + 2]? = some 0xFE ∧
    ([0xFB, 0x00, 0x01, 0xFE] : List Byte)[(0x01 : Byte).toNat + 1]? = some 0x01 ∧
    (0x02 : Byte).toNat = dueChecksum [0xFB, 0x00, 0x01, 0xFE] 0x01 ∧ (0x02 : Byte) ≠ 0x01 :=
  ⟨rfl, by decide, ⟨rfl, rfl, rfl⟩, by decide, rfl, rfl, by decide, by decide⟩

set_option maxRecDepth 20000 in
/-- The shortest and the longest length. -/
theorem witness_UnrecognizedFrameAccepted :
    (State.reset.buf ++ goodFrame 0x02 0x99 [] = [] ++ goodFrame 0x02 0x99 [] ++ [] ∧ (0xFB : Byte) ∉ ([] : List Byte) ∧
      2 ≤ (0x02 : Byte).toNat ∧ ([] : List Byte).length = (0x02 : Byte).toNat - 2 ∧ (0x02 : Byte) ≠ 0x11) ∧
    (2 ≤ (0xFF : Byte).toNat ∧ (List.replicate 253 (0x01 : Byte)).length = (0xFF : Byte).toNat - 2 ∧ (0xFF : Byte) ≠ 0x11) :=
  ⟨⟨rfl, by decide, by decide, rfl, by decide⟩, by decide, by decide, by decide⟩

theorem witness_TelemetryFrameDecoded :
    State.reset.buf ++ ([0x01] ++ goodFrame 0x11 0x00 payloadS4) = [0x01] ++ goodFrame 0x11 0x00 payloadS4 ++ [] ∧
    (0xFB : Byte) ∉ ([0x01] : List Byte) ∧ payloadS4.length = 15 :=
  ⟨by decide, by decide, rfl⟩

theorem witness_DegenerateLengths :
    State.reset.buf = [] ∧ (0x00 : Byte) ≠ 0xFB ∧ (0xFE : Byte) ≠ 0xFB ∧ (0x77 : Byte) ≠ 0xFB ∧ (0x33 : Byte) ≠ 0xFB ∧
    (0x33 : Byte) ≠ 0xFE := by decide

set_option maxRecDepth 20000 in
theorem witness_SpuriousSentinelKeepsFrame :
    (0xFB : Byte) ∉ State.reset.buf ∧ 2 ≤ (0xFE : Byte).toNat ∧
    (List.replicate 252 (0x00 : Byte)).length = (0xFE : Byte).toNat - 2 ∧ (0xFE : Byte) ≠ 0x11 ∧
    payloadS4.length = 15 := by decide

theorem witness_EveryFrameBehindSpuriousSentinelReported :
    State.reset.buf = [] ∧ 2 ≤ (0x06 : Byte).toNat ∧ ([0x00, 0x00, 0x00, 0xFE] : List Byte).length = (0x06 : Byte).toNat - 2 := by
  decide

theorem witness_FiniteCapacityFaults :
    2 < (holding [0x01]).buf.length + ([0x02, 0x03] : List Byte).length ∧
    (holding [0x01]).buf.length + ([0x02, 0x03] : List Byte).length ≤ 3 := by decide

theorem witness_WholeFrameRowIsAccepted :
    (0xFB : Byte) ∉ (holding [0x01]).buf ∧ 2 ≤ (0x02 : Byte).toNat ∧ (0x02 : Byte) ≠ 0x11 ∧
    ([] : List Byte).length = (0x02 : Byte).toNat - 2 ∧ payloadP1.length = 15 := by decide

theorem witness_ScanFindsFirstSentinel :
    (0xFB : Byte) ∉ (holding [0xFE]).buf ∧ FirstSentinel (holding [0x01, 0xFB]).buf 1 :=
  ⟨by decide, rfl, by decide⟩

theorem witness_ScanHeaderNeedsFiveBytes :
    (holding [0xFB, 0x00, 0x00, 0xFE]).buf.length < 0 + 5 ∧ 0 + 5 ≤ (holding [0xFB, 0x00, 0x00, 0xFE, 0x77]).buf.length := by
  decide

theorem witness_ScanLengthComputesFrameEnd_waits :
    (holding (frameS4.take 19)).buf[0 + 2]? = some 0x11 ∧
    (holding (frameS4.take 19)).buf.length < 0 + 2 + (0x11 : Byte).toNat + 1 := by decide

theorem witness_ScanLengthComputesFrameEnd_complete :
    (holding frameS4).buf[0 + 2]? = some 0x11 ∧ 0 + 2 + (0x11 : Byte).toNat + 1 ≤ (holding frameS4).buf.length := by decide

theorem witness_ScanSliceValidatesCopy : 2 + 3 ≤ 5 ∧ 5 ≤ (holding [0x01, 0x02, 0xFB, 0xFB, 0x00]).buf.length := by decide

theorem witness_ScannerDropsGoOn :
    2 + 1 ≤ (holding [0x01, 0x02, 0xFB]).buf.length ∧ 3 ≤ (holding [0x01, 0x02, 0xFB]).buf.length := by decide

theorem witness_AccessOutsideSequenceFaults :
    (holding [0xFB, 0x00]).buf.length ≤ 0 + 2 ∧ (holding [0xFB]).buf.length < 1 + 1 ∧ (holding [0xFB]).buf.length < 2 ∧
    ([0xFB, 0x00] : List Byte).length < 3 ∧ (List.replicate 14 (0x00 : Byte)).length < 15 := by decide

theorem witness_ValidateOutcomes_terminator :
    Candidate [0xFB, 0x99, 0x02, 0x05, 0xFD] 0x02 ∧
    ([0xFB, 0x99, 0x02, 0x05, 0xFD] : List Byte)[(0x02 : Byte).toNat + 2]? = some 0xFD ∧
    ([0xFB, 0x99, 0x02, 0x05, 0xFD] : List Byte)[(0x02 : Byte).toNat + 1]? = some 0x05 ∧
    (0x04 : Byte).toNat = dueChecksum [0xFB, 0x99, 0x02, 0x05, 0xFD] 0x02 ∧ (0xFD : Byte) ≠ 0xFE :=
  ⟨⟨rfl, rfl, rfl⟩, rfl, rfl, by decide, by decide⟩

theorem witness_ValidateOutcomes_checksum :
    Candidate [0xFB, 0x99, 0x02, 0x05, 0xFE] 0x02 ∧
    ([0xFB, 0x99, 0x02, 0x05, 0xFE] : List Byte)[(0x02 : Byte).toNat + 2]? = some 0xFE ∧
    ([0xFB, 0x99, 0x02, 0x05, 0xFE] : List Byte)[(0x02 : Byte).toNat + 1]? = some 0x05 ∧
    (0x04 : Byte).toNat = dueChecksum [0xFB, 0x99, 0x02, 0x05, 0xFE] 0x02 ∧ (0x04 : Byte) ≠ 0x05 :=
  ⟨⟨rfl, rfl, rfl⟩, rfl, rfl, by decide, by decide⟩

theorem witness_ValidateOutcomes_accepted :
    Candidate [0xFB, 0x99, 0x02, 0x04, 0xFE] 0x02 ∧
    ([0xFB, 0x99, 0x02, 0x04, 0xFE] : List Byte)[(0x02 : Byte).toNat + 2]? = some 0xFE ∧
    ([0xFB, 0x99, 0x02, 0x04, 0xFE] : List Byte)[(0x02 : Byte).toNat + 1]? = some 0x04 ∧
    (0x04 : Byte).toNat = dueChecksum [0xFB, 0x99, 0x02, 0x04, 0xFE] 0x02 ∧ (0x02 : Byte) ≠ 0x11 :=
  ⟨⟨rfl, rfl, rfl⟩, rfl, rfl, by decide, by decide⟩

theorem witness_ValidateOutcomes_telemetry :
    Candidate frameS4 0x11 ∧ frameS4[(0x11 : Byte).toNat + 2]? = some 0xFE ∧
    frameS4[(0x11 : Byte).toNat + 1]? = some 0x51 ∧ (0x51 : Byte).toNat = dueChecksum frameS4 0x11 :=
  ⟨⟨rfl, rfl, rfl⟩, rfl, rfl, by decide⟩

theorem witness_ValidateIsItsSteps :
    Candidate { State.reset with work := { Work.idle with ctrl := .term, frame := frameS4 } }.work.frame 0x11 ∧
    { State.reset with work := { Work.idle with ctrl := .term, frame := frameS4 } }.work.ctrl = .term :=
  ⟨⟨rfl, rfl, rfl⟩, rfl⟩

theorem witness_ValTermComparesLastByte :
    ([0xFB, 0x00, 0x00] : List Byte).getLast? = some 0x00 ∧ (0x00 : Byte) ≠ 0xFE ∧
    ([0xFB, 0x00, 0x01, 0xFE] : List Byte).getLast? = some 0xFE := by decide

/-- R36: for `L = 1` the command and the declared checksum are the same byte. -/
theorem witness_ValExtractReadsCommandAndChecksum :
    ([0xFB, 0x00, 0x01, 0xFE] : List Byte)[2]? = some 0x01 ∧
    ([0xFB, 0x00, 0x01, 0xFE] : List Byte)[([0xFB, 0x00, 0x01, 0xFE] : List Byte).length - 2]? = some 0x01 := by decide

theorem witness_ChecksumIsSumModulo256 :
    (0xFC : Byte).toNat = ((0xFF : Byte).toNat + (0xFF : Byte).toNat +
      (([0xFF, 0xFF] : List Byte).map BitVec.toNat).sum) % 256 := by decide

theorem witness_ChecksumIgnoresPayloadOrder : ([0x01, 0x02] : List Byte).Perm [0x02, 0x01] := by decide

theorem witness_ValMismatchReportsDifference : (0x38 : Byte) ≠ 0x39 ∧ (0x38 : Byte) = 0x38 := by decide

/-- 14 bytes fail the guard and 15 pass. -/
theorem witness_ValAcceptForwardsTelemetry :
    (0x03 : Byte) ≠ 0x11 ∧ (List.replicate 14 (0x00 : Byte)).length < 15 ∧
    15 ≤ (List.replicate 15 (0x00 : Byte)).length := by decide

theorem witness_CommandByteOutcomes :
    payloadS4.length = 15 ∧ (0x03 : Byte) ≠ 0x11 ∧ (0x33 : Byte) ≠ 0xFE := by decide

theorem witness_DecodeBranches :
    (0x12 : Byte) ≠ 0x11 ∧ (List.replicate 14 (0x00 : Byte)).length < 15 ∧
    15 ≤ (List.replicate 15 (0x00 : Byte)).length := by decide

theorem witness_DecodeGuardNeedsFifteen :
    (List.replicate 14 (0x00 : Byte)).length < 15 ∧ 15 ≤ (List.replicate 15 (0x00 : Byte)).length := by decide

theorem witness_DecodeOtherIsSilent : (0x12 : Byte) ≠ 0x11 := by decide

theorem witness_MultiByteFieldsAreLittleEndian :
    (65536 : BitVec 24).toNat = (0x00 : Byte).toNat + 256 * (0x00 : Byte).toNat + 65536 * (0x01 : Byte).toNat ∧
    (0 : BitVec 16).toNat = (0x00 : Byte).toNat + 256 * (0x00 : Byte).toNat ∧
    (16777215 : BitVec 24).toNat = (0xFF : Byte).toNat + 256 * (0xFF : Byte).toNat + 65536 * (0xFF : Byte).toNat ∧
    (65535 : BitVec 16).toNat = (0xFF : Byte).toNat + 256 * (0xFF : Byte).toNat ∧
    TelemetryRecord.blank = State.reset.work.record.getD .blank := by decide

theorem witness_OneByteFieldsAreUnchanged : TelemetryRecord.blank = State.reset.work.record.getD .blank := by decide

theorem witness_FlagRowsAddSetFaults :
    recordS4 = { Work.idle with record := some recordS4 }.record.getD .blank ∧
    [FaultName.controllerFault] = (if .controllerFault ∈ recordS4.faults then [.controllerFault] else []) ∧
    [] = (if .displayFault ∈ recordS4.faults then [FaultName.displayFault] else []) ∧
    [FaultName.batteryFault] = (if .batteryFault ∈ recordS4.faults then [.batteryFault] else []) ∧
    [] = (if .currentLimiting ∈ recordS4.faults then [FaultName.currentLimiting] else []) := by decide

theorem witness_NoFaultsLooksAtDefinedBits : TelemetryRecord.blank = State.reset.work.record.getD .blank := by decide

theorem witness_PayloadGivesRecord : payloadP1.length = 15 := by decide

theorem witness_OnlyScannerChangesBuffer :
    (∃ t, exec (.scanResync 0) (holding [0xFB]) = .next t) ∧
    (∃ t, exec (.valTerm [0xFB, 0x00, 0x00]) (holding [0xFB]) = .next t ∧
      movesBuffer (.valTerm [0xFB, 0x00, 0x00]) = false ∧ isTransaction (.valTerm [0xFB, 0x00, 0x00]) = false) :=
  ⟨⟨_, rfl⟩, _, rfl, rfl, rfl⟩

/-- The counterexample behind `EveryFrameBehindSpuriousSentinelReported`, of the shape of 95_test_vectors.md P4: payload
byte `FE` ends the false candidate of length byte 5. -/
theorem test_falseSynchronisation :
    (observe (exec (.ingest (0xFB :: goodFrame 0x06 0x05 [0x00, 0x00, 0x00, 0xFE])) State.reset)).map
      (fun o => decide (.frameAccepted 0x06 ∈ o.2)) = some false := by decide

end Sys2Proof.Tests
end

/-! The append of 20_memory.md R16: what it answers when the chunk fits, and SCAN.APPEND as its one component row. -/

namespace Sys2Proof.Machine

/-- SCAN.APPEND's arm of `exec`. -/
theorem exec_scanAppend (chunk : List Byte) (s : State) : exec (.scanAppend chunk) s = execScanAppend chunk s := rfl

/-- A chunk that fits is appended whole and in order, and nothing else changes (the converse of
`appendWithin_next`). -/
theorem appendWithin_of_fits {cap : Option Nat} {chunk : List Byte} {s : State} (h : fits cap s.buf chunk = true) :
    appendWithin cap chunk s = .next (s.setBuf (s.buf ++ chunk)) :=
  if_pos h

/-- With the default capacity an append always completes (R16, R26). -/
theorem appendWithin_default (chunk : List Byte) (s : State) :
    appendWithin Config.bufCap chunk s = .next (s.setBuf (s.buf ++ chunk)) :=
  appendWithin_of_fits (fits_default s.buf chunk)

/-- Settles O32: with the default capacity the append always completes, and control goes on to the search. -/
theorem scanAppendAppends : Obligations.ScanAppendAppends := by
  intro s chunk
  calc exec (.scanAppend chunk) s
    _ = andThen (appendWithin Config.bufCap chunk s) fun t => .next (continueScan t) := exec_scanAppend chunk s
    _ = .next (continueScan (s.setBuf (s.buf ++ chunk))) := by rw [appendWithin_default, andThen_next]
    _ = .next { s with buf := s.buf ++ chunk, work := { s.work with ctrl := .find } } := rfl

end Sys2Proof.Machine

/-! FrameScanner steps 2 to 5 (40_framescanner.md R47 to R50): what SCAN.FIND, SCAN.HEADER, SCAN.LENGTH and SCAN.SLICE
answer. -/

namespace Sys2Proof.Machine

open Sys2Proof.Safety

/-! ### The scanner's rows -/

/-- SCAN.FIND's arm of `exec`. -/
theorem exec_scanFind (s : State) : exec .scanFind s = execScanFind s := rfl

/-- SCAN.HEADER's arm of `exec`. -/
theorem exec_scanHeader (i : Nat) (s : State) : exec (.scanHeader i) s = execScanHeader i s := rfl

/-- SCAN.LENGTH's arm of `exec`. -/
theorem exec_scanLength (i : Nat) (s : State) : exec (.scanLength i) s = execScanLength i s := rfl

/-- SCAN.SLICE hands the slice to the validator, on the state that holds it as its frame (R50). -/
theorem exec_scanSlice (i e : Nat) (s : State) :
    exec (.scanSlice i e) s =
      validateFrame (slice s.buf i e) (s.setWork { s.work with frame := slice s.buf i e }) := rfl

/-- VALIDATE is the whole validator (R57). -/
theorem exec_validate (frame : List Byte) (s : State) : exec (.validate frame) s = validateFrame frame s := rfl

/-! ### Step 2: the search -/

theorem execScanFind_of_none {s : State} (h : findFirst Config.sentinel s.buf = none) :
    execScanFind s = .next (stopScan .sentinel (s.setWork { s.work with startIndex := none })) := by
  simp only [execScanFind, h]

theorem execScanFind_of_some {s : State} {i : Nat} (h : findFirst Config.sentinel s.buf = some i) :
    execScanFind s = .next ((s.setWork { s.work with startIndex := some i }).goTo .header) := by
  simp only [execScanFind, h]

/-- Settles O33: the search answers `none` exactly on a buffer without sentinel, and its least index otherwise. -/
theorem scanFindsFirstSentinel : Obligations.ScanFindsFirstSentinel := by
  intro s
  refine ⟨fun hnone => ?_, fun i hfirst => ?_⟩
  · exact (exec_scanFind s).trans (execScanFind_of_none (findFirst_eq_none.2 hnone))
  · exact (exec_scanFind s).trans (execScanFind_of_some (firstSentinel_iff.1 hfirst))

/-! ### Step 3: five bytes from the sentinel onward -/

/-- Settles O34: the model counts the bytes from `startIndex` onward, the statement those of the whole buffer. -/
theorem scanHeaderNeedsFiveBytes : Obligations.ScanHeaderNeedsFiveBytes := by
  intro s i
  refine ⟨fun hshort => ?_, fun hlong => ?_⟩
  · have hstop : headerShort s.buf i = true := headerShort_iff.2 (by omega)
    exact (exec_scanHeader i s).trans (if_pos hstop)
  · have hpass : ¬ headerShort s.buf i = true := by rw [headerShort_iff]; omega
    exact (exec_scanHeader i s).trans (if_neg hpass)

/-! ### Step 4: the length and `frameEnd` -/

/-- SCAN.LENGTH where the length byte exists: both values are set, and whether the buffer holds
`frameEnd` bytes decides where control goes. -/
theorem execScanLength_of_some {s : State} {i : Nat} {len : Byte}
    (h : byteAt s.buf (i + Config.lenOffset) = some len) :
    execScanLength i s =
      if s.buf.length < frameEndOf i len then
        .next (stopScan .body (s.setWork { s.work with len := len, frameEnd := frameEndOf i len }))
      else .next ((s.setWork { s.work with len := len, frameEnd := frameEndOf i len }).goTo .slice) := by
  simp only [execScanLength, h]

/-- Settles O35: `frameEndOf` is the statement's sum of natural numbers, so the test compares with it unwrapped. -/
theorem scanLengthComputesFrameEnd : Obligations.ScanLengthComputesFrameEnd := by
  intro s i len hlen
  have hread := (exec_scanLength i s).trans (execScanLength_of_some hlen)
  refine ⟨fun hwait => ?_, fun hwhole => ?_⟩
  · exact hread.trans (if_pos hwait)
  · exact hread.trans (if_neg (Nat.not_lt.2 hwhole))

/-! ### Step 5: the slice -/

/-- Every outcome selects one of the two drops, step 6 or step 7 (R64). -/
theorem Verdict.next_eq_resync_or_consume (v : Verdict) : v.next = .resync ∨ v.next = .consume := by
  cases v with
  | terminatorBad _ => exact .inl rfl
  | checksumBad _ _ | valid _ _ => exact .inr rfl

/-- Reporting keeps the scanner's copy of the candidate. -/
@[simp] theorem report_frame (v : Verdict) (s : State) : (report v s).work.frame = s.work.frame := rfl
@[simp] theorem report_len (v : Verdict) (s : State) : (report v s).work.len = s.work.len := rfl

/-- The validator's steps (b) to (d) leave the scanner's values alone. -/
@[simp] theorem Work.examined_frame (w : Work) (frame : List Byte) (v : Verdict) :
    (w.examined frame v).frame = w.frame := by cases v <;> rfl
@[simp] theorem Work.examined_startIndex (w : Work) (frame : List Byte) (v : Verdict) :
    (w.examined frame v).startIndex = w.startIndex := by cases v <;> rfl
@[simp] theorem Work.examined_len (w : Work) (frame : List Byte) (v : Verdict) :
    (w.examined frame v).len = w.len := by cases v <;> rfl
@[simp] theorem Work.examined_frameEnd (w : Work) (frame : List Byte) (v : Verdict) :
    (w.examined frame v).frameEnd = w.frameEnd := by cases v <;> rfl

/-- On a frame of three bytes or more the whole validator completes (R57). -/
theorem validateFrame_completes {frame : List Byte} (h : 3 ≤ frame.length) (s : State) :
    ∃ t, validateFrame frame s = .next t := by
  obtain ⟨v, hv⟩ := classify_isSome h
  exact ⟨_, validateFrame_next.2 ⟨v, hv, rfl⟩⟩

/-- The validator leaves the buffer and the scanner's values as they are, and selects one of the two drops. -/
theorem validateFrame_leaves_scanner {frame : List Byte} {s t : State} (h : validateFrame frame s = .next t) :
    t.buf = s.buf ∧ t.inbox = s.inbox ∧ t.work.frame = s.work.frame ∧ t.work.startIndex = s.work.startIndex ∧
      t.work.len = s.work.len ∧ t.work.frameEnd = s.work.frameEnd ∧
      (t.work.ctrl = .resync ∨ t.work.ctrl = .consume) := by
  obtain ⟨v, -, rfl⟩ := validateFrame_next.1 h
  simp [v.next_eq_resync_or_consume]

/-- Settles O36: a slice of three bytes or more has an outcome, and SCAN.SLICE answers what the validator does. -/
theorem scanSliceValidatesCopy : Obligations.ScanSliceValidatesCopy := by
  intro s i e hsize hend
  have hlong : 3 ≤ (slice s.buf i e).length := by rw [slice_length hend]; omega
  obtain ⟨t, ht⟩ := validateFrame_completes hlong (s.setWork { s.work with frame := slice s.buf i e })
  exact ⟨t, (exec_scanSlice i e s).trans ht, (exec_validate _ _).trans ht, validateFrame_leaves_scanner ht⟩

end Sys2Proof.Machine

/-! FrameValidator steps (a), (b) and (e) (41_framevalidator.md R58, R59, R62): what VAL.TERM, VAL.EXTRACT and
VAL.MISMATCH answer. -/

namespace Sys2Proof.Machine

/-! ### The validator's rows -/

/-- VAL.TERM's arm of `exec`. -/
theorem exec_valTerm (frame : List Byte) (s : State) : exec (.valTerm frame) s = execValTerm frame s := rfl

/-- VAL.EXTRACT's arm of `exec`. -/
theorem exec_valExtract (frame : List Byte) (s : State) : exec (.valExtract frame) s = execValExtract frame s := rfl

/-- VAL.MISMATCH's arm of `exec`. -/
theorem exec_valMismatch (calculated cks : Byte) (s : State) :
    exec (.valMismatch calculated cks) s = execValMismatch calculated cks s := rfl

/-! ### The two rejections -/

/-- A bad terminator is one event and sends the scanner to the one-byte skip; no record is touched (R64 row 1). -/
theorem report_terminatorBad (last : Byte) (s : State) :
    report (.terminatorBad last) s =
      { s with events := s.events ++ [.terminatorMismatch 0xFE last],
               work := { s.work with verdict := some (.terminatorBad last), ctrl := .resync } } := rfl

/-- A bad checksum is one event, with the calculated value as `expected`, and sends the scanner to consume the
candidate; no record is touched (R64 row 2). -/
theorem report_checksumBad (calculated cks : Byte) (s : State) :
    report (.checksumBad calculated cks) s =
      { s with events := s.events ++ [.checksumMismatch calculated cks],
               work := { s.work with verdict := some (.checksumBad calculated cks), ctrl := .consume } } := rfl

/-! ### Step (a): the terminator -/

/-- The byte VAL.TERM reads is the frame's last one. -/
theorem byteAt_length_sub_one (frame : List Byte) : byteAt frame (frame.length - 1) = frame.getLast? :=
  List.getLast?_eq_getElem?.symm

/-- VAL.TERM where the frame has a last byte: the comparison alone decides. -/
theorem execValTerm_of_getLast? {frame : List Byte} {last : Byte} (h : frame.getLast? = some last) (s : State) :
    execValTerm frame s =
      if last ≠ Config.terminator then .next (report (.terminatorBad last) s) else .next (s.goTo .extract) := by
  simp only [execValTerm, byteAt_length_sub_one, h]

/-- Settles O41: a last byte other than the sentinel is reported, and the sentinel goes on to step (b). -/
theorem valTermComparesLastByte : Obligations.ValTermComparesLastByte := by
  intro s frame last hlast
  have hread := (exec_valTerm frame s).trans (execValTerm_of_getLast? hlast s)
  refine ⟨fun hbad => ?_, fun hgood => ?_⟩
  · rw [hread.trans (if_pos hbad), report_terminatorBad]
  · exact hread.trans (if_neg (not_not_intro hgood))

/-! ### Step (b): the command and the declared checksum -/

/-- VAL.EXTRACT where both bytes exist; for length 1 they may be one byte (R36). -/
theorem execValExtract_of_some {frame : List Byte} {cmd cks : Byte}
    (hcmd : byteAt frame Config.cmdOffset = some cmd) (hcks : byteAt frame (frame.length - 2) = some cks) (s : State) :
    execValExtract frame s = .next ((s.setWork { s.work with cmd := cmd, cks := cks }).goTo .payload) := by
  simp only [execValExtract, hcmd, hcks]

/-- Settles O42: the statement's two reads are the model's, at `Config.cmdOffset` and one before the last byte. -/
theorem valExtractReadsCommandAndChecksum : Obligations.ValExtractReadsCommandAndChecksum := by
  intro s frame cmd cks hcmd hcks
  exact (exec_valExtract frame s).trans (execValExtract_of_some hcmd hcks s)

/-! ### Step (e): the comparison of the checksums -/

/-- Settles O46: a difference is reported, and equal values go on to step (f). -/
theorem valMismatchReportsDifference : Obligations.ValMismatchReportsDifference := by
  intro s calculated cks
  refine ⟨fun hdiff => ?_, fun hsame => ?_⟩
  · rw [(exec_valMismatch calculated cks s).trans (if_pos hdiff), report_checksumBad]
  · exact (exec_valMismatch calculated cks s).trans (if_neg (not_not_intro hsame))

end Sys2Proof.Machine

/-! ChecksumEngine (42_checksumengine.md R65): the byte that CHECKSUM, and validator step (d) through it, leave as the
calculated checksum. -/

namespace Sys2Proof.Machine

/-- CHECKSUM's arm of `exec`. -/
theorem exec_checksum (len cmd : Byte) (payload : List Byte) (s : State) :
    exec (.checksum len cmd payload) s = execChecksum len cmd payload s := rfl

/-- VAL.CALC's arm of `exec`. -/
theorem exec_valCalc (len cmd : Byte) (payload : List Byte) (s : State) :
    exec (.valCalc len cmd payload) s = execValCalc len cmd payload s := rfl

/-- A byte equals the model's checksum exactly where its value is the unbounded sum reduced modulo 256. -/
theorem eq_checksumOf_iff {len cmd c : Byte} {payload : List Byte} :
    c = checksumOf len cmd payload ↔
      c.toNat = (len.toNat + cmd.toNat + (payload.map BitVec.toNat).sum) % 256 := by
  rw [← Safety.sumBytes_eq_sum, ← checksumOf_toNat, BitVec.toNat_inj]

/-- Settles O44: the hypothesis says that `c` is the model's checksum, which is what both rows write. -/
theorem checksumIsSumModulo256 : Obligations.ChecksumIsSumModulo256 := by
  intro s len cmd c payload hsum
  obtain rfl : c = checksumOf len cmd payload := eq_checksumOf_iff.2 hsum
  exact ⟨exec_checksum len cmd payload s, exec_valCalc len cmd payload s⟩

end Sys2Proof.Machine

/-! The message form (log entry 5): each reader of operands answers the operands that `operandBytes` wrote, and the
decoder answers only operations their row admits. -/

namespace Sys2Proof

open Sys2Proof.Machine

/-! ### Each reader on what was written -/

theorem readIndex_natBytes (f : Nat → Instr) (n : Nat) : readIndex f (natBytes n) = some (f n) := by
  have h := readNat_natBytes n []
  rw [List.append_nil] at h
  simp [readIndex, h]

theorem readTwoIndices_natBytes (f : Nat → Nat → Instr) (m n : Nat) :
    readTwoIndices f (natBytes m ++ natBytes n) = some (f m n) := by
  simp [readTwoIndices, readNat_natBytes, readIndex_natBytes]

/-- The payload of a frame is found again from the length byte, behind the three header bytes (R31). -/
theorem readFrame_frameBytes (f : Byte → Byte → List Byte → Instr) {len : Byte} (rsv : Byte) {payload : List Byte}
    (h : payload.length = len.toNat - 2) : readFrame f (frameBytes len rsv payload) = some (f len rsv payload) := by
  have htake : (payload ++ [checksumOf len len payload, Config.terminator]).take (len.toNat - 2) = payload := by
    rw [← h, List.take_left]
  simp [readFrame, frameBytes, htake]

theorem readTelem_frameBytes (rsv : Byte) {payload : List Byte}
    (h : payload.length = Config.cmdTelemetry.toNat - 2) :
    readTelem (frameBytes Config.cmdTelemetry rsv payload) = some (.telem rsv payload) :=
  (if_pos rfl).trans (readFrame_frameBytes _ rsv h)

/-- The bytes of a 24-bit field assemble to the field (R20, R39). -/
theorem le24_of_bytes (v : BitVec 24) : le24 (v.extractLsb' 0 8) (v.extractLsb' 8 8) (v.extractLsb' 16 8) = v := by
  apply BitVec.eq_of_toNat_eq
  have := v.isLt
  rw [le24_toNat]
  simp only [BitVec.extractLsb'_toNat, Nat.shiftRight_eq_div_pow, byteBits_eq]
  omega

/-- The bytes of a 16-bit field assemble to the field (R20, R39). -/
theorem le16_of_bytes (v : BitVec 16) : le16 (v.extractLsb' 0 8) (v.extractLsb' 8 8) = v := by
  apply BitVec.eq_of_toNat_eq
  have := v.isLt
  rw [le16_toNat]
  simp only [BitVec.extractLsb'_toNat, Nat.shiftRight_eq_div_pow, byteBits_eq]
  omega

/-- A record whose descriptors are those of its flag byte is the one its payload bytes give (R38, R69). -/
theorem recordOf_recordBytes {r : TelemetryRecord} (h : recordConsistent r = true) :
    recordOf (recordBytes r) = some r := by
  obtain ⟨hfaults, hnone⟩ : r.faults = faultList r.errorFlags ∧ r.noFaults = noFaultsOf r.errorFlags := by
    simpa [recordConsistent] using h
  simp only [recordBytes, bytes24, bytes16, byteBits_eq, List.cons_append, List.nil_append, recordOf, Nat.reduceMul,
    le24_of_bytes, le16_of_bytes, ← hfaults, ← hnone]

theorem readRecord_recordBytes {r : TelemetryRecord} (h : recordConsistent r = true) :
    readRecord (recordBytes r) = some (.evTelemetryDecoded r) := by
  simp [readRecord, recordOf_recordBytes h]

/-! ### The whole message -/

/-- Every row reads its own operands back; only the rows whose operands the row's own lengths delimit need the
operation to be admitted. -/
theorem decodeOperands_operandBytes {i : Instr} (h : i.wf = true) :
    decodeOperands (rowOf i) (operandBytes i) = some i := by
  cases i with
  | scanHeader _ | scanLength _ | scanResync _ | scanConsume _ => exact readIndex_natBytes _ _
  | scanSlice _ _ => exact readTwoIndices_natBytes _ _ _
  | frame len rsv payload => exact readFrame_frameBytes _ rsv (by simpa [Instr.wf] using h)
  | telem rsv payload => exact readTelem_frameBytes rsv (by simpa [Instr.wf] using h)
  | evTelemetryDecoded record => exact readRecord_recordBytes h
  | evDecodeError reason => cases reason; rfl
  | _ => rfl

theorem rowOf_lt_rowCount (i : Instr) : rowOf i < rowCount := by
  cases i <;> exact of_decide_eq_true rfl

/-- The first byte of a message is the row's place, unwrapped. -/
theorem rowByte_toNat (i : Instr) : (BitVec.ofNat Config.byteBits (rowOf i)).toNat = rowOf i := by
  have h : rowOf i < 50 := rowOf_lt_rowCount i
  simp only [BitVec.toNat_ofNat]
  exact Nat.mod_eq_of_lt (by simp only [byteBits_eq]; omega)

/-- Settles O1: the first byte selects the row, and the row's reader answers the operands that were written. -/
theorem decodeOfEncode : Obligations.DecodeOfEncode := by
  intro i hwf
  simp only [encode, decode, rowByte_toNat, rowOf_lt_rowCount, if_true, decodeOperands_operandBytes hwf, hwf]

/-- Everything a message that holds an operation is: a row's place, operands of its form, and admitted ones. -/
theorem decode_ok {m : List Byte} {i : Instr} (h : decode m = .ok i) :
    ∃ tag bytes, m = tag :: bytes ∧ tag.toNat < rowCount ∧ decodeOperands tag.toNat bytes = some i ∧ i.wf = true := by
  unfold decode at h
  split at h
  · cases h
  · rename_i tag bytes
    split at h
    · rename_i hrow
      split at h
      · rename_i i' hread
        split at h
        · rename_i hwf
          cases h
          exact ⟨tag, bytes, rfl, hrow, hread, hwf⟩
        · cases h
      · cases h
    · cases h

/-- Settles O2: the decoder's last test is the admission of the operation it answers. -/
theorem decodedOperationsAreWellFormed : Obligations.DecodedOperationsAreWellFormed := by
  intro m i h
  obtain ⟨-, -, -, -, -, hwf⟩ := decode_ok h
  exact hwf

/-- Settles O3: each word is a closed list of bytes, which the decoder evaluates. -/
theorem specEncodedWordsDecode : Obligations.SpecEncodedWordsDecode := by
  unfold Obligations.SpecEncodedWordsDecode
  decide

/-- Settles O4: each word is a closed number, which the decoder evaluates. -/
theorem tableWordsDecode : Obligations.TableWordsDecode := by
  unfold Obligations.TableWordsDecode
  decide

end Sys2Proof

/-! One step (log entry 2): the head of the inbox is taken, decoded and performed, or passed over; RESET; and the rest
between transactions that a host of transactions keeps (R14). -/

namespace Sys2Proof.Machine

open Sys2Proof.Safety

/-- INGEST is bytes that arrive (R85). -/
theorem exec_ingest (chunk : List Byte) (s : State) : exec (.ingest chunk) s = receive chunk s := rfl

theorem exec_reset (s : State) : exec .reset s = .next (State.reset.setInbox s.inbox) := rfl

/-! ### The inbox -/

theorem fetch_of_nil {s : State} (h : s.inbox = []) : fetch s = none := by
  simp only [fetch, h]

theorem fetch_of_cons {s : State} {m : List Byte} {rest : List (List Byte)} (h : s.inbox = m :: rest) :
    fetch s = some (m, s.setInbox rest) := by
  simp only [fetch, h]

/-- Settles O5: `fetch` takes the message from the head of the inbox, and `step` performs what it decodes to. -/
theorem stepRunsDecodedOperation : Obligations.StepRunsDecodedOperation := by
  intro s m rest i hinbox hdecode
  simp only [step, fetch_of_cons hinbox, hdecode]
  rfl

/-- Settles O6: `passOver` keeps the state from which `fetch` has taken the message. -/
theorem stepWithoutOperation : Obligations.StepWithoutOperation := by
  refine ⟨fun s hinbox => ?_, fun s m rest why hinbox hdecode => ?_⟩
  · simp only [step, fetch_of_nil hinbox]
  · simp only [step, fetch_of_cons hinbox, hdecode]
    rfl

/-! ### Rest between transactions -/

theorem atRest_reset : AtRest State.reset := ⟨.inl List.not_mem_nil, rfl⟩

/-- The operations behind the head of a host-only inbox are the host's too. -/
theorem hostOnly_tail {m : List Byte} {rest : List (List Byte)} (h : HostOnly (m :: rest)) : HostOnly rest :=
  fun m' hm' => h m' (List.mem_cons_of_mem m hm')

/-- A transaction leaves the core at rest, from whatever state, and keeps the waiting operations. -/
theorem transaction_leaves_rest {i : Instr} {s t : State} (hi : isTransaction i = true) (h : exec i s = .next t) :
    AtRest t ∧ t.inbox = s.inbox := by
  rcases transaction_next hi h with rfl | ⟨chunk, hreceive⟩
  · exact ⟨atRest_reset, rfl⟩
  · obtain ⟨hbuf, -, hwork, hinbox⟩ := receive_next hreceive
    refine ⟨⟨quiescent_iff.2 ?_, hwork⟩, hinbox⟩
    rw [hbuf]
    exact resolve_scan _

/-- Settles O7: no sentinel stands in an empty buffer, and no message in an empty inbox. -/
theorem resetStateIsEmptyAndAtRest : Obligations.ResetStateIsEmptyAndAtRest :=
  ⟨rfl, rfl, rfl, rfl, atRest_reset, fun _ hm => absurd hm List.not_mem_nil⟩

/-- Settles O8: RESET answers the reset state with the inbox put back. -/
theorem resetRestoresPowerOn : Obligations.ResetRestoresPowerOn := exec_reset

/-- Settles O12: an idle step and a message passed over change neither buffer nor ephemeral values, and a transaction
ends where an iteration of its scan stops. -/
theorem stepKeepsRest : Obligations.StepKeepsRest := by
  intro s t hrest hhost hstep
  rcases step_next hstep with ⟨-, rfl⟩ | ⟨m, rest, why, hinbox, -, rfl⟩ | ⟨m, rest, i, hinbox, hdecode, hexec⟩
  · exact ⟨hrest, hhost⟩
  · rw [hinbox] at hhost
    exact ⟨hrest, hostOnly_tail hhost⟩
  · rw [hinbox] at hhost
    obtain ⟨hafter, hkept⟩ := transaction_leaves_rest (hhost m List.mem_cons_self i hdecode) hexec
    refine ⟨hafter, ?_⟩
    rw [hkept]
    exact hostOnly_tail hhost

end Sys2Proof.Machine

/-! INGEST through its scan (44_core_interface.md R85): what every scan does to the buffer, how many events it emits, and
why the cut of the stream into chunks does not matter (R91). -/

namespace Sys2Proof.Machine

open Sys2Proof.Safety

/-- INGEST always completes, with the results of one scan (R85, R102). -/
theorem exec_ingest_eq (chunk : List Byte) (s : State) :
    exec (.ingest chunk) s =
      .next { s with buf := (scan (s.buf ++ chunk)).2, events := (scan (s.buf ++ chunk)).1, work := .idle } :=
  receive_eq chunk s

/-- What INGEST answers, where the scan of the bytes is known. -/
theorem exec_ingest_of_scan {chunk buf : List Byte} {s : State} {es : List Event}
    (h : scan (s.buf ++ chunk) = (es, buf)) :
    exec (.ingest chunk) s = .next { s with buf := buf, events := es, work := .idle } := by
  rw [exec_ingest_eq, h]

/-- The buffer and the events of a state that INGEST answers. -/
theorem ingest_next {chunk : List Byte} {s t : State} (h : exec (.ingest chunk) s = .next t) :
    t.buf = (scan (s.buf ++ chunk)).2 ∧ t.events = (scan (s.buf ++ chunk)).1 := by
  obtain ⟨hbuf, hevents, -, -⟩ := receive_next h
  exact ⟨hbuf, hevents⟩

/-! ### Every scan -/

/-- A scan only drops bytes at the head (R8). -/
theorem scan_drops (buf : List Byte) : ∃ k, k ≤ buf.length ∧ (scan buf).2 = buf.drop k := by
  induction buf using scan_induction with
  | stop buf h => exact ⟨0, Nat.zero_le _, by rw [scan_of_stop h, List.drop_zero]⟩
  | next buf es k h ih =>
    obtain ⟨-, -, -, -, -, -, -, -, hk⟩ := resolve_some h
    obtain ⟨j, hj, hdrop⟩ := ih
    rw [List.length_drop] at hj
    exact ⟨k + j, by omega, by rw [scan_of_resolve h, hdrop, List.drop_drop]⟩

/-- The decoder emits at most one event (R69 to R71). -/
theorem decodeEvents_length_le (cmd : Byte) (payload : List Byte) : (decodeEvents cmd payload).length ≤ 1 := by
  unfold decodeEvents
  repeat' split
  all_goals simp

theorem Verdict.events_length_le (v : Verdict) : v.events.length ≤ 2 := by
  cases v with
  | terminatorBad _ | checksumBad _ _ => exact Nat.le_succ 1
  | valid cmd payload => exact Nat.succ_le_succ (decodeEvents_length_le cmd payload)

/-- Each iteration emits at most two events and drops a byte or more (R53). -/
theorem scan_events_length_le (buf : List Byte) : (scan buf).1.length ≤ 2 * buf.length := by
  induction buf using scan_induction with
  | stop buf h => simp [scan_of_stop h]
  | next buf es k h ih =>
    obtain ⟨-, -, v, -, -, rfl, -, hpos, hk⟩ := resolve_some h
    have hv := v.events_length_le
    rw [List.length_drop] at ih
    rw [scan_of_resolve h, List.length_append]
    omega

/-- A quiescent buffer holds at most 257 bytes from its first sentinel on: a length byte is at most 255 (R14). -/
theorem quiescent_length_le {buf : List Byte} {i : Nat} (h : Quiescent buf) (hi : FirstSentinel buf i) :
    buf.length ≤ i + 257 := by
  have hfirst := firstSentinel_iff.1 hi
  obtain ⟨w, hwait⟩ := resolve_eq_none.1 (quiescent_iff.1 h)
  rcases locate_wait hwait with ⟨-, hnone⟩ | ⟨s, -, hs, hshort⟩ | ⟨s, len, -, hs, -, -, hshort⟩
  · exact absurd (List.mem_of_getElem? hi.1) hnone
  · obtain rfl : s = i := Option.some.inj (hs.symm.trans hfirst)
    omega
  · obtain rfl : s = i := Option.some.inj (hs.symm.trans hfirst)
    have := byte_toNat_lt len
    omega

/-- Settles O13: INGEST scans the old bytes and the chunk, and a scan only drops at the head. -/
theorem bufferIsSuffixOfStream : Obligations.BufferIsSuffixOfStream := by
  intro s chunk
  obtain ⟨k, hk, hdrop⟩ := scan_drops (s.buf ++ chunk)
  exact ⟨_, k, exec_ingest_eq chunk s, by simpa using hk, hdrop⟩

/-- Settles O14: a scan leaves a quiescent buffer. -/
theorem heldSpanBounded : Obligations.HeldSpanBounded := by
  intro s chunk
  exact ⟨_, exec_ingest_eq chunk s, fun i hi => quiescent_length_le (quiescent_iff.2 (resolve_scan _)) hi⟩

/-- Settles O15: the bound of a scan, for the old bytes and the chunk together. -/
theorem eventCountBounded : Obligations.EventCountBounded := by
  intro s chunk
  exact ⟨_, exec_ingest_eq chunk s, by simpa using scan_events_length_le (s.buf ++ chunk)⟩

/-! ### Chunks -/

/-- Feeding chunks to a quiescent buffer is one scan of all their bytes (R91). -/
theorem feed_eq_scan (cut : List (List Byte)) (s : State) (h : Quiescent s.buf) :
    (feed cut s).1 = (scan (s.buf ++ cut.flatten)).1 ∧ (feed cut s).2.buf = (scan (s.buf ++ cut.flatten)).2 := by
  induction cut generalizing s with
  | nil => simp [feed, scan_of_stop (quiescent_iff.1 h)]
  | cons chunk rest ih =>
    obtain ⟨hevents, hbuf⟩ := ih
      { s with buf := (scan (s.buf ++ chunk)).2, events := (scan (s.buf ++ chunk)).1, work := .idle }
      (quiescent_iff.2 (resolve_scan _))
    simp only [feed, exec_ingest_eq, List.flatten_cons, ← List.append_assoc, scan_append (s.buf ++ chunk)]
    exact ⟨by rw [hevents], hbuf⟩

/-- Settles O11: both cuts give the one scan of the whole sequence. -/
theorem chunkingInvariance : Obligations.ChunkingInvariance := by
  intro s cut cut' hquiescent hsame
  obtain ⟨hevents, hbuf⟩ := feed_eq_scan cut s hquiescent
  obtain ⟨hevents', hbuf'⟩ := feed_eq_scan cut' s hquiescent
  rw [hevents, hbuf, hevents', hbuf', hsame]
  exact ⟨rfl, rfl⟩

/-! ### A scan that stops at once -/

/-- INGEST of bytes that leave the buffer quiescent reports nothing and keeps them all. -/
theorem exec_ingest_of_quiescent {chunk : List Byte} {s : State} (h : Quiescent (s.buf ++ chunk)) :
    exec (.ingest chunk) s = .next { s with buf := s.buf ++ chunk, events := [], work := .idle } :=
  exec_ingest_of_scan (scan_of_stop (quiescent_iff.1 h))

/-- Settles O20: the first form of a quiescent buffer. -/
theorem noSentinelKeepsBytes : Obligations.NoSentinelKeepsBytes :=
  fun _ _ hnone => exec_ingest_of_quiescent (.inl hnone)

/-- Settles O21: the second and the third form of a quiescent buffer. -/
theorem incompleteCandidateWaits : Obligations.IncompleteCandidateWaits := by
  intro s chunk i len hfirst hshort
  refine exec_ingest_of_quiescent ?_
  rw [← List.length_append] at hshort
  by_cases hheader : (s.buf ++ chunk).length < i + 5
  · exact .inr (.inl ⟨i, hfirst, hheader⟩)
  · obtain ⟨hlen, hbody⟩ := hshort.resolve_left hheader
    exact .inr (.inr ⟨i, len, hfirst, Nat.not_lt.1 hheader, hlen, hbody⟩)

/-! ### A finite capacity (D2) -/

theorem fits_some_iff {n : Nat} {buf chunk : List Byte} :
    fits (some n) buf chunk = true ↔ buf.length + chunk.length ≤ n := decide_eq_true_iff

/-- Settles O29: `fits` decides both operations alike. -/
theorem finiteCapacityFaults : Obligations.FiniteCapacityFaults := by
  intro n chunk s
  refine ⟨fun hover => ?_, fun hfit => ?_⟩
  · have hno : ¬ fits (some n) s.buf chunk = true := by rw [fits_some_iff]; omega
    exact ⟨if_neg hno, if_neg hno⟩
  · exact ⟨if_pos (fits_some_iff.2 hfit), appendWithin_of_fits (fits_some_iff.2 hfit)⟩

/-! ### Bytes on the wire (log entry 6) -/

/-- The model's frame is the one the claims write out: its checksum is the sum, reduced once (R33, R65). -/
theorem frameBytes_eq_goodFrame (len rsv : Byte) (payload : List Byte) :
    frameBytes len rsv payload = goodFrame len rsv payload := by
  have hsum : checksumOf len len payload =
      BitVec.ofNat 8 (len.toNat + len.toNat + (payload.map BitVec.toNat).sum) :=
    (eq_checksumOf_iff.2 (BitVec.toNat_ofNat _ _)).symm
  simp only [frameBytes, goodFrame, hsum]
  rfl

theorem exec_frame (len rsv : Byte) (payload : List Byte) (s : State) :
    exec (.frame len rsv payload) s = exec (.ingest (goodFrame len rsv payload)) s := by
  rw [← frameBytes_eq_goodFrame]
  rfl

theorem exec_telem (rsv : Byte) (payload : List Byte) (s : State) :
    exec (.telem rsv payload) s = exec (.ingest (goodFrame 0x11 rsv payload)) s := exec_frame 0x11 rsv payload s

/-- Settles O30: the two whole frames by their bytes, the four other rows by what they are. -/
theorem wireRowsArriveAsChunks : Obligations.WireRowsArriveAsChunks := by
  intro s len rsv b payload
  exact ⟨⟨_, (exec_frame len rsv payload s).trans (exec_ingest_eq _ s), exec_ingest_eq _ s⟩,
    ⟨_, (exec_telem rsv payload s).trans (exec_ingest_eq _ s), exec_ingest_eq _ s⟩,
    ⟨_, rfl, exec_ingest_eq _ s⟩, ⟨_, rfl, exec_ingest_eq _ s⟩, ⟨_, rfl, exec_ingest_eq _ s⟩,
    ⟨_, rfl, exec_ingest_eq _ s⟩⟩

end Sys2Proof.Machine

/-! What a scan reports (30_encoding.md R43, 41_framevalidator.md R64): one block of events for each candidate, and the
list of a transaction as such blocks in order. -/

namespace Sys2Proof.Machine

open Sys2Proof.Safety

/-- What the scanner hands to the validator is a candidate (R50). -/
theorem candidate_of_locate {buf : List Byte} {s e : Nat} (h : locate buf = .candidate s e) :
    ∃ len, Candidate (slice buf s e) len := by
  obtain ⟨len, hfirst, -, hlen, rfl, hle⟩ := locate_candidate h
  obtain ⟨hsentinel, -⟩ := findFirst_eq_some.1 hfirst
  refine ⟨len, ?_, (byteAt_slice (by omega)).trans hsentinel, (byteAt_slice (by omega)).trans hlen⟩
  rw [slice_length hle]
  omega

/-! ### Lengths 0 and 1 (R36) -/

/-- With length 0 the length byte is the last byte. -/
theorem classify_len0 (rsv : Byte) : classify [0xFB, rsv, 0x00] = some (.terminatorBad 0x00) := rfl

theorem candidate_len0 (rsv : Byte) : Candidate [0xFB, rsv, 0x00] 0x00 := ⟨rfl, rfl, rfl⟩

theorem candidate_len1 (rsv last : Byte) : Candidate [0xFB, rsv, 0x01, last] 0x01 := ⟨rfl, rfl, rfl⟩

/-- With length 1 the byte behind the length byte is the last byte. -/
theorem classify_len1_of_ne (rsv : Byte) {last : Byte} (h : last ≠ 0xFE) :
    classify [0xFB, rsv, 0x01, last] = some (.terminatorBad last) := if_pos h

/-- With length 1 the length byte is also the declared checksum, and the calculated one is twice it. -/
theorem classify_len1_of_terminator (rsv : Byte) :
    classify [0xFB, rsv, 0x01, 0xFE] = some (.checksumBad 0x02 0x01) := rfl

/-- A candidate of length 0 is its three header bytes. -/
theorem eq_of_candidate_len0 {cand : List Byte} (hC : Candidate cand 0x00) : ∃ rsv, cand = [0xFB, rsv, 0x00] := by
  obtain ⟨b0, rsv, b2, rfl⟩ := List.length_eq_three.1 hC.size
  obtain rfl : b0 = 0xFB := Option.some.inj hC.sentinel
  obtain rfl : b2 = 0x00 := Option.some.inj hC.length
  exact ⟨rsv, rfl⟩

/-- A candidate of length 1 is its three header bytes and one more. -/
theorem eq_of_candidate_len1 {cand : List Byte} (hC : Candidate cand 0x01) :
    ∃ rsv last, cand = [0xFB, rsv, 0x01, last] := by
  obtain ⟨b0, rsv, b2, last, rfl⟩ := List.length_eq_four.1 hC.size
  obtain rfl : b0 = 0xFB := Option.some.inj hC.sentinel
  obtain rfl : b2 = 0x01 := Option.some.inj hC.length
  exact ⟨rsv, last, rfl⟩

/-- A length of 0 or 1 never passes the checks (R36). -/
theorem two_le_of_valid {cand payload : List Byte} {len cmd : Byte} (hC : Candidate cand len)
    (hv : classify cand = some (.valid cmd payload)) : 2 ≤ len.toNat := by
  by_contra hsmall
  obtain hzero | hone : len.toNat = 0 ∨ len.toNat = 1 := by omega
  · obtain rfl : len = 0x00 := BitVec.eq_of_toNat_eq hzero
    obtain ⟨rsv, rfl⟩ := eq_of_candidate_len0 hC
    cases (classify_len0 rsv).symm.trans hv
  · obtain rfl : len = 0x01 := BitVec.eq_of_toNat_eq hone
    obtain ⟨rsv, last, rfl⟩ := eq_of_candidate_len1 hC
    by_cases hlast : last = 0xFE
    · subst hlast
      cases (classify_len1_of_terminator rsv).symm.trans hv
    · cases (classify_len1_of_ne rsv hlast).symm.trans hv

/-! ### The outcomes and their events -/

/-- The three outcomes on a candidate, each with what it says of the candidate (R57, R64). -/
theorem verdict_of_candidate {cand : List Byte} {len : Byte} {v : Verdict} (hC : Candidate cand len)
    (hv : classify cand = some v) :
    (∃ last, last ≠ 0xFE ∧ v = .terminatorBad last) ∨
    (∃ calculated cks, calculated ≠ cks ∧ v = .checksumBad calculated cks) ∨
    (∃ payload, 2 ≤ len.toNat ∧ payload.length = len.toNat - 2 ∧ v = .valid len payload) := by
  obtain ⟨last, cks, -, -, -, -, hpayload, -, hclassify⟩ := classify_candidate hC
  have hv' := hv
  rw [hclassify] at hv'
  split at hv'
  · rename_i hbad
    exact .inl ⟨last, hbad, (Option.some.inj hv').symm⟩
  · split at hv'
    · rename_i hdiff
      exact .inr (.inl ⟨_, cks, hdiff, (Option.some.inj hv').symm⟩)
    · obtain rfl := Option.some.inj hv'
      refine .inr (.inr ⟨payloadOf cand, two_le_of_valid hC hv, ?_, rfl⟩)
      have hsize := hC.size
      simp only [hpayload, List.length_drop, List.length_take]
      omega

/-- The events one candidate gives: the four rows of R64. -/
inductive Report : List Event → Prop where
  | terminator {last : Byte} (h : last ≠ 0xFE) : Report [.terminatorMismatch 0xFE last]
  | checksum {calculated cks : Byte} (h : calculated ≠ cks) : Report [.checksumMismatch calculated cks]
  | accepted {c : Byte} (h2 : 2 ≤ c.toNat) (h : c ≠ 0x11) : Report [.frameAccepted c]
  | decoded (r : TelemetryRecord) : Report [.frameAccepted 0x11, .telemetryDecoded r]

/-- The events of an iteration are those of one candidate. -/
theorem report_of_resolve {buf : List Byte} {es : List Event} {k : Nat} (h : resolve buf = some (es, k)) :
    Report es := by
  obtain ⟨s, e, v, hlocate, hv, rfl, -, -, -⟩ := resolve_some h
  obtain ⟨len, hC⟩ := candidate_of_locate hlocate
  rcases verdict_of_candidate hC hv with ⟨last, hbad, rfl⟩ | ⟨_, _, hdiff, rfl⟩ | ⟨payload, h2, hsize, rfl⟩
  · exact .terminator hbad
  · exact .checksum hdiff
  · by_cases htelemetry : len = 0x11
    · subst htelemetry
      obtain ⟨r, -, hr⟩ := decodeEvents_telemetry (p := payload) (by rw [hsize]; decide)
      rw [Verdict.events, hr]
      exact .decoded r
    · rw [Verdict.events, decodeEvents_other htelemetry]
      exact .accepted h2 htelemetry

/-- What holds of no events, and stays true when a candidate's events are put in front, holds of what a scan emits. -/
theorem scan_events_induction {P : List Event → Prop} (nil : P [])
    (append : ∀ es later, Report es → P later → P (es ++ later)) (buf : List Byte) : P (scan buf).1 := by
  induction buf using scan_induction with
  | stop buf h => rw [scan_of_stop h]; exact nil
  | next buf es k h ih => rw [scan_of_resolve h]; exact append es _ (report_of_resolve h) ih

/-- Each event of a scan is one of a candidate's. -/
theorem report_of_mem_scan {buf : List Byte} {e : Event} : e ∈ (scan buf).1 → ∃ es, Report es ∧ e ∈ es := by
  refine scan_events_induction (P := fun all => e ∈ all → ∃ es, Report es ∧ e ∈ es) (fun h => ?_)
    (fun es later hes ih h => ?_) buf
  · exact absurd h List.not_mem_nil
  · exact (List.mem_append.1 h).elim (fun h => ⟨es, hes, h⟩) ih

theorem report_of_mem_ingest {chunk : List Byte} {s t : State} {e : Event} (h : exec (.ingest chunk) s = .next t)
    (he : e ∈ t.events) : ∃ es, Report es ∧ e ∈ es := by
  rw [(ingest_next h).2] at he
  exact report_of_mem_scan he

/-- Settles O16: the accepted blocks are those of a command from 2 other than 0x11, and of 0x11. -/
theorem acceptedCommandsAtLeastTwo : Obligations.AcceptedCommandsAtLeastTwo := by
  intro s t chunk c hingest hmem
  obtain ⟨es, hes, hc⟩ := report_of_mem_ingest hingest hmem
  cases hes with
  | terminator _ | checksum _ => simp at hc
  | accepted h2 _ =>
    obtain rfl : c = _ := by simpa using hc
    exact h2
  | decoded r =>
    obtain rfl : c = 0x11 := by simpa using hc
    decide

/-- Settles O17: no block holds a `DecodeError`, since a frame of command 0x11 carries fifteen payload bytes. -/
theorem ingestNeverReportsDecodeError : Obligations.IngestNeverReportsDecodeError := by
  intro s t chunk reason hingest hmem
  obtain ⟨es, hes, hreason⟩ := report_of_mem_ingest hingest hmem
  cases hes <;> simp at hreason

/-- Settles O18: the two mismatch blocks carry the inequality that gave them. -/
theorem mismatchEventsDiffer : Obligations.MismatchEventsDiffer := by
  intro s t chunk x a hingest
  refine ⟨fun hmem => ?_, fun hmem => ?_⟩
  · obtain ⟨es, hes, hevent⟩ := report_of_mem_ingest hingest hmem
    cases hes with
    | terminator hbad =>
      obtain ⟨rfl, rfl⟩ : x = 0xFE ∧ a = _ := by simpa using hevent
      exact ⟨rfl, hbad⟩
    | checksum _ | accepted _ _ | decoded _ => simp at hevent
  · obtain ⟨es, hes, hevent⟩ := report_of_mem_ingest hingest hmem
    cases hes with
    | checksum hdiff =>
      obtain ⟨rfl, rfl⟩ : x = _ ∧ a = _ := by simpa using hevent
      exact hdiff
    | terminator _ | accepted _ _ | decoded _ => simp at hevent

/-! ### Acceptance and its record stand side by side (D6) -/

/-- In a list of events every record has the acceptance of its frame right before it, and every acceptance of a
telemetry frame has a record right behind it. -/
def RecordsFollow (es : List Event) : Prop :=
  ∀ i, (∀ r, es[i]? = some (.telemetryDecoded r) → ∃ j, i = j + 1 ∧ es[j]? = some (.frameAccepted 0x11)) ∧
    (es[i]? = some (.frameAccepted 0x11) → ∃ r, es[i + 1]? = some (.telemetryDecoded r))

/-- An event that is neither of the two may stand in front. -/
theorem recordsFollow_cons {e : Event} {later : List Event} (hr : ∀ r, e ≠ .telemetryDecoded r)
    (ha : e ≠ .frameAccepted 0x11) (h : RecordsFollow later) : RecordsFollow (e :: later) := by
  intro i
  cases i with
  | zero => exact ⟨fun r hi => absurd (Option.some.inj hi) (hr r), fun hi => absurd (Option.some.inj hi) ha⟩
  | succ i =>
    obtain ⟨hbefore, hbehind⟩ := h i
    refine ⟨fun r hi => ?_, hbehind⟩
    obtain ⟨j, rfl, hj⟩ := hbefore r hi
    exact ⟨j + 1, rfl, hj⟩

/-- Both of them may stand in front, in this order. -/
theorem recordsFollow_pair (r : TelemetryRecord) {later : List Event} (h : RecordsFollow later) :
    RecordsFollow (.frameAccepted 0x11 :: .telemetryDecoded r :: later) := by
  intro i
  match i with
  | 0 => exact ⟨fun r' hi => (nomatch hi), fun _ => ⟨r, rfl⟩⟩
  | 1 => exact ⟨fun _ _ => ⟨0, rfl, rfl⟩, fun hi => (nomatch hi)⟩
  | i + 2 =>
    obtain ⟨hbefore, hbehind⟩ := h i
    refine ⟨fun r' hi => ?_, hbehind⟩
    obtain ⟨j, rfl, hj⟩ := hbefore r' hi
    exact ⟨j + 2, rfl, hj⟩

theorem recordsFollow_scan (buf : List Byte) : RecordsFollow (scan buf).1 := by
  refine scan_events_induction (fun i => ⟨fun _ hi => (nomatch hi), fun hi => (nomatch hi)⟩)
    (fun es later hes ih => ?_) buf
  cases hes with
  | terminator _ | checksum _ => exact recordsFollow_cons (by simp) (by simp) ih
  | accepted _ hother => exact recordsFollow_cons (by simp) (by simpa using hother) ih
  | decoded r => exact recordsFollow_pair r ih

/-- Settles O19: the events of a scan are blocks, and only the telemetry block holds either of the two. -/
theorem telemetryFollowsAcceptance : Obligations.TelemetryFollowsAcceptance := by
  intro s t chunk i hingest
  rw [(ingest_next hingest).2]
  exact recordsFollow_scan _ i

end Sys2Proof.Machine

/-! INGEST by its first candidate (41_framevalidator.md R64, 40_framescanner.md R51, R52): the outcome's events come
first, and the scan goes on behind what the outcome drops. -/

namespace Sys2Proof.Machine

open Sys2Proof.Safety

/-! ### The scan behind bytes without sentinel -/

/-- A bad terminator: the scan goes on right behind the candidate's sentinel (R51). -/
theorem scan_of_terminatorBad {pre cand rest : List Byte} {len last : Byte} (hp : Config.sentinel ∉ pre)
    (hC : Candidate cand len) (h5 : 5 ≤ cand.length + rest.length)
    (hv : classify cand = some (.terminatorBad last)) :
    scan (pre ++ cand ++ rest) =
      (.terminatorMismatch 0xFE last :: (scan (cand.drop 1 ++ rest)).1, (scan (cand.drop 1 ++ rest)).2) := by
  obtain ⟨v, hv', hresolve⟩ := resolve_behind_prefix hp hC h5
  obtain rfl := Option.some.inj (hv.symm.trans hv')
  have hsize := hC.size
  have hdrop : (pre ++ cand ++ rest).drop (pre.length + 1) = cand.drop 1 ++ rest := by
    rw [List.append_assoc, List.drop_length_add_append, List.drop_append_of_le_length (by omega)]
  rw [scan_of_resolve hresolve, Verdict.drop, hdrop]
  rfl

/-- Every other outcome: the scan goes on behind the whole candidate (R52). -/
theorem scan_of_consumed {pre cand rest : List Byte} {len : Byte} {v : Verdict} (hp : Config.sentinel ∉ pre)
    (hC : Candidate cand len) (h5 : 5 ≤ cand.length + rest.length) (hv : classify cand = some v)
    (hnext : v.next = .consume) :
    scan (pre ++ cand ++ rest) = (v.events ++ (scan rest).1, (scan rest).2) := by
  obtain ⟨v', hv', hresolve⟩ := resolve_behind_prefix hp hC h5
  obtain rfl := Option.some.inj (hv.symm.trans hv')
  have hend : v.drop pre.length (pre.length + cand.length) = (pre ++ cand).length := by
    rw [List.length_append]
    cases v with
    | terminatorBad _ => cases hnext
    | checksumBad _ _ | valid _ _ => rfl
  rw [scan_of_resolve hresolve, hend, List.drop_left]

/-- Without sentinel the scan stops at once (R92). -/
theorem scan_of_no_sentinel {buf : List Byte} (h : Config.sentinel ∉ buf) : scan buf = ([], buf) :=
  scan_of_stop (quiescent_iff.1 (.inl h))

/-- INGEST where a scan reports `es` and goes on with `rest`: the other events and the buffer are those of INGEST of
nothing on `rest`. -/
theorem ingest_goes_on {s : State} {chunk rest : List Byte} {es : List Event}
    (h : scan (s.buf ++ chunk) = (es ++ (scan rest).1, (scan rest).2)) :
    ∃ t u, exec (.ingest chunk) s = .next t ∧ exec (.ingest []) { s with buf := rest } = .next u ∧
      t.buf = u.buf ∧ t.events = es ++ u.events := by
  refine ⟨_, _, exec_ingest_of_scan h, exec_ingest_of_scan (es := (scan rest).1) (buf := (scan rest).2) ?_, rfl, rfl⟩
  simp

/-! ### An intact frame -/

section GoodFrame

variable {len : Byte} {payload : List Byte} (rsv : Byte)

theorem goodFrame_length (len : Byte) (payload : List Byte) :
    (goodFrame len rsv payload).length = payload.length + 5 := by
  simp [goodFrame]

/-- An intact frame is a candidate (R28, R50). -/
theorem candidate_goodFrame (h2 : 2 ≤ len.toNat) (hsize : payload.length = len.toNat - 2) :
    Candidate (goodFrame len rsv payload) len :=
  ⟨by rw [goodFrame_length]; omega, rfl, rfl⟩

/-- The validator accepts an intact frame, with its payload (R63). -/
theorem classify_goodFrame (h2 : 2 ≤ len.toNat) (hsize : payload.length = len.toNat - 2) :
    classify (goodFrame len rsv payload) = some (.valid len payload) := by
  obtain ⟨last, cks, hlast, hcks, -, -, hpayload, -, hclassify⟩ :=
    classify_candidate (candidate_goodFrame rsv h2 hsize)
  have hhead : ([0xFB, rsv, len] ++ payload).length = len.toNat + 1 := by simp; omega
  have hmiddle : payloadOf (goodFrame len rsv payload) = payload := by
    rw [hpayload, goodFrame, ← hhead, List.take_left]
    rfl
  rw [goodFrame, List.getElem?_append_right (by omega), hhead] at hlast hcks
  rw [Nat.add_sub_add_left] at hlast
  rw [Nat.sub_self] at hcks
  obtain rfl := Option.some.inj hlast
  obtain rfl := Option.some.inj hcks
  rw [hclassify, hmiddle, if_neg (by decide), if_neg (not_not_intro (eq_checksumOf_iff.2 _).symm)]
  exact BitVec.toNat_ofNat _ _

/-- An intact frame behind bytes without sentinel: acceptance and the decoder's events, and the scan goes on behind the
frame. -/
theorem scan_of_goodFrame {pre : List Byte} (rest : List Byte) (hp : Config.sentinel ∉ pre) (h2 : 2 ≤ len.toNat)
    (hsize : payload.length = len.toNat - 2) :
    scan (pre ++ goodFrame len rsv payload ++ rest) =
      ((.frameAccepted len :: decodeEvents len payload) ++ (scan rest).1, (scan rest).2) :=
  scan_of_consumed hp (candidate_goodFrame rsv h2 hsize) (by rw [goodFrame_length]; omega)
    (classify_goodFrame rsv h2 hsize) rfl

/-- An intact frame at the end of the bytes leaves the buffer empty. -/
theorem scan_of_last_goodFrame {pre : List Byte} (hp : Config.sentinel ∉ pre) (h2 : 2 ≤ len.toNat)
    (hsize : payload.length = len.toNat - 2) :
    scan (pre ++ goodFrame len rsv payload) = (.frameAccepted len :: decodeEvents len payload, []) := by
  have hscan := scan_of_goodFrame rsv [] hp h2 hsize
  have hempty : scan [] = ([], []) := rfl
  simpa [hempty] using hscan

end GoodFrame

/-! ### The four outcomes of the first candidate -/

/-- Settles O22: the outcome is the bad terminator, which drops one byte of the candidate. -/
theorem badTerminatorSkipsOneByte : Obligations.BadTerminatorSkipsOneByte := by
  intro s chunk pre cand rest len last hbytes hp hC h5 hlast hbad
  obtain ⟨last', cks, hlast', -, -, -, -, -, hclassify⟩ := classify_candidate hC
  obtain rfl := Option.some.inj (hlast.symm.trans hlast')
  rw [if_pos hbad] at hclassify
  refine ingest_goes_on (es := [.terminatorMismatch 0xFE last]) ?_
  rw [hbytes]
  exact scan_of_terminatorBad hp hC h5 hclassify

/-- Settles O23: the outcome is the bad checksum, which drops the candidate. -/
theorem badChecksumDropsSpan : Obligations.BadChecksumDropsSpan := by
  intro s chunk pre cand rest len cks calculated hbytes hp hC h5 hlast hcks hdue hdiff
  obtain ⟨last', cks', hlast', hcks', -, -, -, hsum, hclassify⟩ := classify_candidate hC
  obtain rfl := Option.some.inj (hlast.symm.trans hlast')
  obtain rfl := Option.some.inj (hcks.symm.trans hcks')
  obtain rfl : calculated = _ := BitVec.eq_of_toNat_eq (hdue.trans hsum.symm)
  rw [if_neg (not_not_intro rfl), if_pos hdiff] at hclassify
  refine ingest_goes_on (es := [.checksumMismatch _ cks]) ?_
  rw [hbytes]
  exact scan_of_consumed hp hC h5 hclassify rfl

/-- Settles O24: the frame is accepted, and the decoder has no event for its command. -/
theorem unrecognizedFrameAccepted : Obligations.UnrecognizedFrameAccepted := by
  intro s chunk pre payload rest len rsv hbytes hp h2 hsize hother
  refine ingest_goes_on (es := [.frameAccepted len]) ?_
  rw [hbytes, scan_of_goodFrame rsv rest hp h2 hsize, decodeEvents_other hother]

/-- Settles O25: the frame is accepted, and its fifteen payload bytes give a record. -/
theorem telemetryFrameDecoded : Obligations.TelemetryFrameDecoded := by
  intro s chunk pre payload rest rsv hbytes hp hsize
  obtain ⟨r, hr, hevents⟩ := decodeEvents_telemetry (p := payload) (by omega)
  have hscan : scan (s.buf ++ chunk) = ([.frameAccepted 0x11, .telemetryDecoded r] ++ (scan rest).1, (scan rest).2) := by
    rw [hbytes, scan_of_goodFrame rsv rest hp (by decide) hsize, hevents]
  obtain ⟨t, u, ht, hu, hbuf, hall⟩ := ingest_goes_on hscan
  exact ⟨t, u, r, ht, hu, recordReads_of_recordOf hr, hbuf, hall⟩

/-- Settles O31: a whole frame is the last thing in the buffer. -/
theorem wholeFrameRowIsAccepted : Obligations.WholeFrameRowIsAccepted := by
  refine ⟨fun s len rsv payload hp h2 hother hsize => ?_, fun s rsv payload hp hsize => ?_⟩
  · rw [exec_frame, exec_ingest_of_scan (scan_of_last_goodFrame rsv hp h2 hsize), decodeEvents_other hother]
  · obtain ⟨r, hr, hevents⟩ := decodeEvents_telemetry (p := payload) (by omega)
    refine ⟨r, recordReads_of_recordOf hr, ?_⟩
    rw [exec_telem, exec_ingest_of_scan (scan_of_last_goodFrame rsv hp (by decide) hsize), hevents]

/-! ### Lengths 0 and 1 (R36) -/

/-- A bad terminator at the head of the buffer, and no other sentinel: one byte is dropped, and the scan stops. -/
theorem scan_of_only_terminatorBad {cand rest : List Byte} {len last : Byte} (hC : Candidate cand len)
    (h5 : 5 ≤ cand.length + rest.length) (hv : classify cand = some (.terminatorBad last))
    (hrest : Config.sentinel ∉ cand.drop 1 ++ rest) :
    scan (cand ++ rest) = ([.terminatorMismatch 0xFE last], cand.drop 1 ++ rest) := by
  have hscan := scan_of_terminatorBad (pre := []) List.not_mem_nil hC h5 hv
  rwa [scan_of_no_sentinel hrest] at hscan

/-- Settles O26: no byte behind the candidate's sentinel is another one, so that the scan stops there. -/
theorem degenerateLengths : Obligations.DegenerateLengths := by
  intro s rsv b3 b4 hempty hrsv h3 h4
  have hcons : ∀ {b : Byte} {l : List Byte}, b ≠ 0xFB → Config.sentinel ∉ l → Config.sentinel ∉ b :: l :=
    fun hb hl => List.not_mem_cons_of_ne_of_not_mem hb.symm hl
  have hlast : Config.sentinel ∉ [b4] := hcons h4 List.not_mem_nil
  refine ⟨exec_ingest_of_scan ?_, fun hbad => exec_ingest_of_scan ?_, fun hgood => exec_ingest_of_scan ?_⟩ <;>
    rw [hempty]
  · exact scan_of_only_terminatorBad (rest := [b3, b4]) (candidate_len0 rsv) (Nat.le_refl 5) (classify_len0 rsv)
      (hcons hrsv (hcons (by decide) (hcons h3 hlast)))
  · exact scan_of_only_terminatorBad (rest := [b4]) (candidate_len1 rsv b3) (Nat.le_refl 5)
      (classify_len1_of_ne rsv hbad) (hcons hrsv (hcons (by decide) (hcons h3 hlast)))
  · subst hgood
    have hscan := scan_of_consumed (pre := []) (rest := [b4]) List.not_mem_nil (candidate_len1 rsv 0xFE)
      (Nat.le_refl 5) (classify_len1_of_terminator rsv) rfl
    rwa [scan_of_no_sentinel hlast] at hscan

/-! ### A spurious sentinel (R114) -/

/-- The false candidate of a sentinel before a frame with reserved byte 0 is three bytes long, and one byte is
dropped. -/
theorem scan_of_spurious_sentinel {pre payload : List Byte} {len : Byte} (hp : Config.sentinel ∉ pre)
    (h2 : 2 ≤ len.toNat) (hsize : payload.length = len.toNat - 2) :
    scan (pre ++ 0xFB :: goodFrame len 0x00 payload) =
      (.terminatorMismatch 0xFE 0x00 :: .frameAccepted len :: decodeEvents len payload, []) := by
  have hframe : goodFrame len 0x00 payload = [0xFB, 0x00] ++ (goodFrame len 0x00 payload).drop 2 := rfl
  have hlen : (goodFrame len 0x00 payload).length = payload.length + 5 := goodFrame_length 0x00 len payload
  have hsplit : pre ++ 0xFB :: goodFrame len 0x00 payload =
      pre ++ [0xFB, 0xFB, 0x00] ++ (goodFrame len 0x00 payload).drop 2 := by
    rw [List.append_assoc]; rfl
  have hlast := scan_of_last_goodFrame 0x00 (pre := []) List.not_mem_nil h2 hsize
  have h5 : 5 ≤ [0xFB, 0xFB, (0x00 : Byte)].length + ((goodFrame len 0x00 payload).drop 2).length := by
    rw [List.length_drop, hlen]; simp; omega
  rw [hsplit, scan_of_terminatorBad hp (candidate_len0 0xFB) h5 (classify_len0 0xFB)]
  rw [List.nil_append] at hlast
  rw [List.drop_one, List.tail_cons, ← hframe, hlast]

/-- Settles O27. -/
theorem spuriousSentinelKeepsFrame : Obligations.SpuriousSentinelKeepsFrame := by
  refine ⟨fun s payload len hp h2 hsize hother => ?_, fun s payload hp hsize => ?_⟩
  · rw [exec_ingest_of_scan (scan_of_spurious_sentinel hp h2 hsize), decodeEvents_other hother]
  · obtain ⟨r, hr, hevents⟩ := decodeEvents_telemetry (p := payload) (by omega)
    refine ⟨r, recordReads_of_recordOf hr, ?_⟩
    rw [exec_ingest_of_scan (scan_of_spurious_sentinel hp (by decide) hsize), hevents]

/-- Refutes O28: with reserved byte 5 the false candidate `FB FB 05 06 00 00 00 FE` ends in a payload byte that is the
terminator, fails its checksum, and takes the frame's header with it. -/
theorem not_everyFrameBehindSpuriousSentinelReported :
    ¬ Obligations.EveryFrameBehindSpuriousSentinelReported := by
  intro h
  obtain ⟨t, hingest, hmem⟩ := h State.reset [0x00, 0x00, 0x00, 0xFE] 0x06 0x05 rfl (by decide) (by decide)
  rw [(ingest_next hingest).2] at hmem
  revert hmem
  decide

end Sys2Proof.Machine

/-! The scan steps performed one by one (40_framescanner.md R46 to R53): the two drops, one iteration of the loop as five
internal steps, and the loop as what a scan answers. -/

namespace Sys2Proof.Machine

open Sys2Proof.Safety

/-! ### The drops -/

/-- SCAN.RESYNC's arm of `exec`. -/
theorem exec_scanResync (i : Nat) (s : State) : exec (.scanResync i) s = execScanResync i s := rfl

/-- SCAN.CONSUME's arm of `exec`. -/
theorem exec_scanConsume (e : Nat) (s : State) : exec (.scanConsume e) s = execScanConsume e s := rfl

/-- A drop of bytes that do not exist is the model's fault (log entry 1). -/
theorem dropHead_of_lt {k : Nat} {s : State} (h : s.buf.length < k) : dropHead k s = .fault .dropOutOfRange :=
  if_neg (Nat.not_le.2 h)

/-- Settles O37: a drop answers where the bytes exist, and control returns to the search. -/
theorem scannerDropsGoOn : Obligations.ScannerDropsGoOn := by
  intro s k
  refine ⟨fun hk => ?_, fun hk => ?_⟩
  · rw [exec_scanResync, execScanResync, dropHead_next.2 ⟨hk, rfl⟩]
    rfl
  · rw [exec_scanConsume, execScanConsume, dropHead_next.2 ⟨hk, rfl⟩]
    rfl

/-! ### Running internal steps -/

/-- Where control is outside, no step is performed. -/
theorem runSteps_outside {inside : Control → Bool} {s : State} (h : inside s.work.ctrl = false) (n : Nat) :
    runSteps inside n s = .next s := by
  cases n with
  | zero => rfl
  | succ n => simp [runSteps, h]

/-- Where control selects no operation, no step is performed. -/
theorem runSteps_stuck {inside : Control → Bool} {s : State} (h : nextOperation s.work = none) (n : Nat) :
    runSteps inside n s = .next s := by
  cases n with
  | zero => rfl
  | succ n => simp [runSteps, h]

theorem andThen_assoc (r : Result) (f g : State → Result) :
    andThen (andThen r f) g = andThen r fun s => andThen (f s) g := by
  cases r <;> rfl

/-- More steps are the first ones and then the others. -/
theorem runSteps_add (inside : Control → Bool) (m n : Nat) (s : State) :
    runSteps inside (m + n) s = andThen (runSteps inside m s) (runSteps inside n) := by
  induction m generalizing s with
  | zero => rw [Nat.zero_add]; rfl
  | succ m ih =>
    rw [Nat.add_right_comm]
    by_cases hin : inside s.work.ctrl = true
    · cases hop : nextOperation s.work with
      | none => rw [runSteps_stuck hop, runSteps_stuck hop, andThen_next, runSteps_stuck hop]
      | some i =>
        simp only [runSteps, hin, if_true, hop, andThen_assoc]
        exact congrArg _ (funext ih)
    · have hout := Bool.eq_false_iff.2 hin
      rw [runSteps_outside hout, runSteps_outside hout, andThen_next, runSteps_outside hout]

/-- Steps that have left where control was to be are over: any other number of steps that leaves it ends alike. -/
theorem runSteps_unique {inside : Control → Bool} {m n : Nat} {s u v : State} (hu : runSteps inside m s = .next u)
    (hv : runSteps inside n s = .next v) (huout : inside u.work.ctrl = false) (hvout : inside v.work.ctrl = false) :
    u = v := by
  have hmn := runSteps_add inside m n s
  have hnm := runSteps_add inside n m s
  rw [hu, andThen_next, runSteps_outside huout] at hmn
  rw [hv, andThen_next, runSteps_outside hvout, Nat.add_comm, hmn] at hnm
  exact Host.Outcome.next.inj hnm

/-! ### The steps of one iteration -/

/-- The search, where it finds a sentinel (R47). -/
theorem runSteps_find {s : State} {i : Nat} (hctrl : s.work.ctrl = .find)
    (hfirst : findFirst Config.sentinel s.buf = some i) :
    ∃ u, (∀ n, runSteps inScanner (n + 1) s = runSteps inScanner n u) ∧ u.work.ctrl = .header ∧
      u.work.startIndex = some i ∧ u.buf = s.buf ∧ u.events = s.events :=
  ⟨_, fun _ => runSteps_succ (by rw [hctrl]; rfl) (by simp [nextOperation, hctrl])
    ((scanFindsFirstSentinel s).2 i (firstSentinel_iff.2 hfirst)), rfl, rfl, rfl, rfl⟩

/-- The search and the header test behind it, where five bytes are held (R48). -/
theorem runSteps_find_header {s : State} {i : Nat} (hctrl : s.work.ctrl = .find)
    (hfirst : findFirst Config.sentinel s.buf = some i) (h5 : i + 5 ≤ s.buf.length) :
    ∃ u, (∀ n, runSteps inScanner (n + 2) s = runSteps inScanner n u) ∧ u.work.ctrl = .length ∧
      u.work.startIndex = some i ∧ u.buf = s.buf ∧ u.events = s.events := by
  obtain ⟨u, hsteps, hheader, hi, hbuf, hevents⟩ := runSteps_find hctrl hfirst
  rw [← hbuf] at h5
  exact ⟨_, fun n => (hsteps (n + 1)).trans (runSteps_succ (by rw [hheader]; rfl)
    (by simp [nextOperation, hheader, hi]) ((scanHeaderNeedsFiveBytes u i).2 h5)), rfl, hi, hbuf, hevents⟩

/-- A step that stops is the last one. -/
theorem runSteps_stop {s u : State} {op : Instr} {w : WaitReason} (hin : inScanner s.work.ctrl = true)
    (hop : nextOperation s.work = some op) (hexec : exec op s = .next u) (hstop : u.work.ctrl = .stopped w) (n : Nat) :
    runSteps inScanner (n + 1) s = .next u := by
  rw [runSteps_succ hin hop hexec, runSteps_outside (by rw [hstop]; rfl)]

/-- Steps 2 to 4 where the scan waits: control stops with the reason, and neither buffer nor events change (R56). -/
theorem runSteps_of_wait {s : State} {w : WaitReason} (hctrl : s.work.ctrl = .find) (h : locate s.buf = .wait w) :
    ∃ u, runSteps inScanner 3 s = .next u ∧ u.work.ctrl = .stopped w ∧ u.buf = s.buf ∧ u.events = s.events := by
  rcases locate_wait h with ⟨rfl, hnone⟩ | ⟨i, rfl, hi, hshort⟩ | ⟨i, len, rfl, hi, h5, hlen, hshort⟩
  · exact ⟨_, runSteps_stop (by rw [hctrl]; rfl) (by simp [nextOperation, hctrl])
      ((scanFindsFirstSentinel s).1 hnone) rfl 2, rfl, rfl, rfl⟩
  · obtain ⟨u, hsteps, hheader, hs, hbuf, hevents⟩ := runSteps_find hctrl hi
    rw [← hbuf] at hshort
    exact ⟨_, (hsteps 2).trans (runSteps_stop (by rw [hheader]; rfl) (by simp [nextOperation, hheader, hs])
      ((scanHeaderNeedsFiveBytes u i).1 hshort) rfl 1), rfl, hbuf, hevents⟩
  · obtain ⟨u, hsteps, hlength, hs, hbuf, hevents⟩ := runSteps_find_header hctrl hi h5
    rw [← hbuf] at hshort hlen
    exact ⟨_, (hsteps 1).trans (runSteps_stop (by rw [hlength]; rfl) (by simp [nextOperation, hlength, hs])
      ((scanLengthComputesFrameEnd u i len hlen).1 (by omega)) rfl 0), rfl, hbuf, hevents⟩

/-- Steps 2 to 4 where a complete candidate is found: control is at the slice of that candidate (R49). -/
theorem runSteps_of_candidate {s : State} {i e : Nat} (hctrl : s.work.ctrl = .find)
    (h : locate s.buf = .candidate i e) :
    ∃ u, (∀ n, runSteps inScanner (n + 3) s = runSteps inScanner n u) ∧ u.work.ctrl = .slice ∧
      u.work.startIndex = some i ∧ u.work.frameEnd = e ∧ u.buf = s.buf ∧ u.events = s.events := by
  obtain ⟨len, hi, h5, hlen, rfl, hle⟩ := locate_candidate h
  obtain ⟨u, hsteps, hlength, hs, hbuf, hevents⟩ := runSteps_find_header hctrl hi h5
  rw [← hbuf] at hlen hle
  refine ⟨_, fun n => (hsteps (n + 1)).trans (runSteps_succ (by rw [hlength]; rfl)
    (by simp [nextOperation, hlength, hs]) ((scanLengthComputesFrameEnd u i len hlen).2 (by omega))),
    rfl, hs, ?_, hbuf, hevents⟩
  show i + 2 + len.toNat + 1 = i + len.toNat + 3
  omega

/-- The drop that an outcome selects, where the bytes exist (R51, R52). -/
theorem exec_selected_drop {s : State} {i e : Nat} {v : Verdict} (hctrl : s.work.ctrl = v.next)
    (hi : s.work.startIndex = some i) (he : s.work.frameEnd = e) (hk : v.drop i e ≤ s.buf.length) :
    ∃ op, nextOperation s.work = some op ∧ exec op s =
      .next { s with buf := s.buf.drop (v.drop i e), work := { s.work with ctrl := .find } } := by
  cases v with
  | terminatorBad _ =>
    exact ⟨.scanResync i, by simp [nextOperation, hctrl, Verdict.next, hi], (scannerDropsGoOn s i).1 hk⟩
  | checksumBad _ _ | valid _ _ =>
    exact ⟨.scanConsume e, by simp [nextOperation, hctrl, Verdict.next, he], (scannerDropsGoOn s e).2 hk⟩

/-- Steps 5 and 6 or 7: the slice is validated, the outcome reported, and its drop performed. -/
theorem runSteps_of_verdict {s : State} {i e : Nat} {v : Verdict} (hctrl : s.work.ctrl = .slice)
    (hi : s.work.startIndex = some i) (he : s.work.frameEnd = e) (hv : classify (slice s.buf i e) = some v)
    (hk : v.drop i e ≤ s.buf.length) :
    ∃ u, (∀ n, runSteps inScanner (n + 2) s = runSteps inScanner n u) ∧ u.work.ctrl = .find ∧
      u.buf = s.buf.drop (v.drop i e) ∧ u.events = s.events ++ v.events := by
  obtain ⟨u, hvalidate, hbuf, hevents, hnext, hs, hend⟩ : ∃ u, exec (.scanSlice i e) s = .next u ∧ u.buf = s.buf ∧
      u.events = s.events ++ v.events ∧ u.work.ctrl = v.next ∧ u.work.startIndex = some i ∧ u.work.frameEnd = e := by
    exact ⟨_, (exec_scanSlice i e s).trans (validateFrame_next.2 ⟨v, hv, rfl⟩), by simp [hi, he]⟩
  rw [← hbuf] at hk
  obtain ⟨op, hselected, hdrop⟩ := exec_selected_drop hnext hs hend hk
  have hop : nextOperation s.work = some (.scanSlice i e) := by simp [nextOperation, hctrl, hi, he]
  have hin : inScanner u.work.ctrl = true := by rw [hnext]; cases v <;> rfl
  exact ⟨_, fun n => (runSteps_succ (by rw [hctrl]; rfl) hop hvalidate).trans (runSteps_succ hin hselected hdrop),
    rfl, by rw [hbuf], hevents⟩

/-- One iteration of the loop is five internal steps (R53). -/
theorem runSteps_of_resolve {s : State} {es : List Event} {k : Nat} (hctrl : s.work.ctrl = .find)
    (h : resolve s.buf = some (es, k)) :
    ∃ u, (∀ n, runSteps inScanner (n + 5) s = runSteps inScanner n u) ∧ u.work.ctrl = .find ∧
      u.buf = s.buf.drop k ∧ u.events = s.events ++ es := by
  obtain ⟨i, e, v, hlocate, hv, rfl, rfl, -, hk⟩ := resolve_some h
  obtain ⟨u, hsteps, hslice, hi, he, hbuf, hevents⟩ := runSteps_of_candidate hctrl hlocate
  rw [← hbuf] at hv hk
  obtain ⟨u', hsteps', hfind, hbuf', hevents'⟩ := runSteps_of_verdict hslice hi he hv hk
  exact ⟨u', fun n => (hsteps (n + 2)).trans (hsteps' n), hfind, by rw [hbuf', hbuf], by rw [hevents', hevents]⟩

/-! ### The whole loop -/

/-- From the search, the internal steps reach a stop with what the scan of the buffer answers, for the reason the
remaining bytes show (R53, R56). -/
theorem runSteps_scan (s : State) (hctrl : s.work.ctrl = .find) :
    ∃ n u w, runSteps inScanner n s = .next u ∧ u.work.ctrl = .stopped w ∧ locate u.buf = .wait w ∧
      u.buf = (scan s.buf).2 ∧ u.events = s.events ++ (scan s.buf).1 := by
  generalize hbytes : s.buf = buf
  induction buf using scan_induction generalizing s with
  | stop buf h =>
    subst hbytes
    obtain ⟨w, hwait⟩ := resolve_eq_none.1 h
    obtain ⟨u, hsteps, hstop, hbuf, hevents⟩ := runSteps_of_wait hctrl hwait
    exact ⟨3, u, w, hsteps, hstop, by rw [hbuf, hwait], by rw [scan_of_stop h, hbuf],
      by rw [scan_of_stop h, hevents, List.append_nil]⟩
  | next buf es k h ih =>
    subst hbytes
    obtain ⟨s', hiteration, hfind, hbuf', hevents'⟩ := runSteps_of_resolve hctrl h
    obtain ⟨n, u, w, hsteps, hstop, hwait, hbuf, hevents⟩ := ih s' hfind hbuf'
    exact ⟨n + 5, u, w, (hiteration n).trans hsteps, hstop, hwait, by rw [scan_of_resolve h, hbuf],
      by rw [scan_of_resolve h, hevents, hevents', List.append_assoc]⟩

/-- Settles O9: SCAN.APPEND leaves the bytes of the scan and sends control to the search. -/
theorem ingestIsItsSteps : Obligations.IngestIsItsSteps := by
  intro s chunk
  refine ⟨⟨_, exec_ingest_eq chunk s, rfl, rfl, ?_⟩, fun s' t t' hsame ht ht' => ?_⟩
  · obtain ⟨n, u, w, hsteps, hstop, -, hbuf, hevents⟩ := runSteps_scan
      { s with buf := s.buf ++ chunk, events := [], work := { s.work with ctrl := .find } } rfl
    refine ⟨n, u, w, ?_, hstop, hbuf.symm, hevents.symm⟩
    rw [scanAppendAppends, andThen_next]
    exact hsteps
  · obtain ⟨hbuf, hevents⟩ := ingest_next ht
    obtain ⟨hbuf', hevents'⟩ := ingest_next ht'
    rw [hbuf, hevents, hbuf', hevents', hsame]
    exact ⟨rfl, rfl⟩

/-- Settles O10: the steps have one end, and there `locate` waits. -/
theorem stopReasonIsShownByBuffer : Obligations.StopReasonIsShownByBuffer := by
  intro s u fuel w hctrl hsteps hstop
  obtain ⟨n, v, w', hsteps', hstop', hwait, -, -⟩ := runSteps_scan s hctrl
  obtain rfl : u = v := runSteps_unique hsteps hsteps' (by rw [hstop]; rfl) (by rw [hstop']; rfl)
  obtain rfl : w = w' := Control.stopped.inj (hstop.symm.trans hstop')
  rcases locate_wait hwait with hnone | ⟨i, hw, hi, hshort⟩ | ⟨i, len, hw, hi, h5, hlen, hshort⟩
  · exact .inl hnone
  · exact .inr (.inl ⟨hw, i, firstSentinel_iff.2 hi, hshort⟩)
  · exact .inr (.inr ⟨hw, i, len, firstSentinel_iff.2 hi, h5, hlen, hshort⟩)

end Sys2Proof.Machine

/-! FrameValidator as a whole (41_framevalidator.md R57, R64): its outcomes on a candidate, its steps (c) and (f), the
command byte (30_encoding.md R36, R37), and the validator as its steps (a) to (f). -/

namespace Sys2Proof.Machine

open Sys2Proof.Safety

/-! ### The validator's other rows -/

/-- VAL.PAYLOAD's arm of `exec`. -/
theorem exec_valPayload (frame : List Byte) (s : State) : exec (.valPayload frame) s = execValPayload frame s := rfl

/-- VAL.ACCEPT reports a valid frame (R63). -/
theorem exec_valAccept (cmd : Byte) (payload : List Byte) (s : State) :
    exec (.valAccept cmd payload) s = .next (report (.valid cmd payload) s) := rfl

/-- TELEM.PAYLOAD's arm of `exec`. -/
theorem exec_telemPayload (payload : List Byte) (s : State) :
    exec (.telemPayload payload) s = execTelemPayload payload s := rfl

/-- CMD.LEN1's arm of `exec`. -/
theorem exec_cmdLen1 (last : Byte) (s : State) : exec (.cmdLen1 last) s = execCmdLen1 last s := rfl

/-- Settles O43: the row's meaning, with `payloadOf` as the slice it is. -/
theorem valPayloadTakesMiddle : Obligations.ValPayloadTakesMiddle := fun s frame => exec_valPayload frame s

/-! ### CHECKSUM and the order of the payload -/

theorem checksumOf_perm (len cmd : Byte) {p q : List Byte} (h : p.Perm q) :
    checksumOf len cmd p = checksumOf len cmd q := by
  rw [eq_checksumOf_iff, checksumOf_toNat, sumBytes_eq_sum, (h.map BitVec.toNat).sum_eq]

/-- Settles O45: only the sum of the payload bytes enters. -/
theorem checksumIgnoresPayloadOrder : Obligations.ChecksumIgnoresPayloadOrder := by
  intro s len cmd p q hperm
  refine ⟨_, rfl, ?_⟩
  rw [exec_checksum, execChecksum, checksumOf_perm len cmd hperm]

/-! ### Acceptance -/

/-- An accepted telemetry frame of fifteen payload bytes or more: acceptance, then its record, and no record is kept
(R63, R83). -/
theorem report_decoded {payload : List Byte} (h : 15 ≤ payload.length) :
    ∃ r, RecordReads r payload ∧ ∀ s : State, report (.valid 0x11 payload) s =
      { s with events := s.events ++ [.frameAccepted 0x11, .telemetryDecoded r],
               work := { s.work with verdict := some (.valid 0x11 payload), ctrl := .consume, record := none } } := by
  obtain ⟨r, hr, hevents⟩ := decodeEvents_telemetry h
  exact ⟨r, recordReads_of_recordOf hr, fun s => by rw [report_telemetry, hevents]⟩

/-- Settles O47: the decoder has no event, its error, or the record, by command and length. -/
theorem valAcceptForwardsTelemetry : Obligations.ValAcceptForwardsTelemetry := by
  intro s cmd payload
  refine ⟨fun hother => ?_, fun htelemetry hshort => ?_, fun htelemetry hlong => ?_⟩
  · rw [exec_valAccept, report_unrecognized s payload hother]
  · subst htelemetry
    rw [exec_valAccept, report_telemetry, decodeEvents_short hshort]
  · subst htelemetry
    obtain ⟨r, hr, hreport⟩ := report_decoded hlong
    exact ⟨r, hr, by rw [exec_valAccept, hreport]⟩

/-- Settles O48: each row reports the outcome it stands for. -/
theorem commandByteOutcomes : Obligations.CommandByteOutcomes := by
  intro s cmd last payload
  refine ⟨fun hsize => ?_, fun hother => ?_, rfl, fun hbad => ?_, fun hgood => ?_⟩
  · obtain ⟨r, hr, hreport⟩ := report_decoded hsize.ge
    exact ⟨r, hr, congrArg _ (hreport s)⟩
  · exact congrArg _ (report_unrecognized s payload hother)
  · exact (exec_cmdLen1 last s).trans (if_pos hbad)
  · exact (exec_cmdLen1 last s).trans (if_neg (not_not_intro hgood))

/-! ### Operands outside a sequence (log entry 1) -/

theorem byteAt_of_length_le {bytes : List Byte} {i : Nat} (h : bytes.length ≤ i) : byteAt bytes i = none :=
  List.getElem?_eq_none h

/-- Settles O38: each read or drop answers none where the bytes do not exist. -/
theorem accessOutsideSequenceFaults : Obligations.AccessOutsideSequenceFaults := by
  intro s k bytes
  refine ⟨fun h => ?_, fun h => ?_, fun h => ?_, rfl, fun h => ?_, fun h => ?_⟩
  · have hnone : byteAt s.buf (k + Config.lenOffset) = none := byteAt_of_length_le h
    simp only [exec_scanLength, execScanLength, hnone]
  · rw [exec_scanResync, execScanResync, dropHead_of_lt h, andThen_fault]
  · rw [exec_scanConsume, execScanConsume, dropHead_of_lt h, andThen_fault]
  · have hnone : byteAt bytes Config.cmdOffset = none := byteAt_of_length_le (Nat.le_of_lt_succ h)
    simp only [exec_valExtract, execValExtract, hnone]
  · have hnone : recordOf bytes = none := by
      rw [← Option.not_isSome_iff_eq_none, recordOf_isSome]
      omega
    simp only [exec_telemPayload, execTelemPayload, hnone]

/-! ### The whole validator on a candidate -/

/-- Steps (b) to (d) on a candidate with a wrong checksum. -/
theorem examined_checksumBad {cand : List Byte} {len : Byte} (hC : Candidate cand len) (w : Work)
    (calculated cks : Byte) :
    w.examined cand (.checksumBad calculated cks) =
      { w with cmd := len, cks := cks, payload := payloadOf cand, calculated := calculated } := by
  simp [Work.examined, byteAt, Config.cmdOffset, hC.length]

/-- Steps (b) to (d) on a candidate that is valid. -/
theorem examined_valid {cand : List Byte} {len cks : Byte} (hC : Candidate cand len)
    (hcks : byteAt cand (cand.length - 2) = some cks) (w : Work) :
    w.examined cand (.valid len (payloadOf cand)) =
      { w with cmd := len, cks := cks, payload := payloadOf cand,
               calculated := checksumOf len len (payloadOf cand) } := by
  simp [Work.examined, byteAt, Config.lenOffset, hC.length] at hcks ⊢
  simp [hcks]

/-- VALIDATE where the outcome is known: its values, and then the report. -/
theorem exec_validate_of_classify {frame : List Byte} {v : Verdict} (h : classify frame = some v) (s : State) :
    exec (.validate frame) s = .next (report v (s.setWork (s.work.examined frame v))) :=
  (exec_validate frame s).trans (validateFrame_next.2 ⟨v, h, rfl⟩)

/-- Settles O39: the candidate's own bytes decide the outcome, and the outcome its report. -/
theorem validateOutcomes : Obligations.ValidateOutcomes := by
  intro s cand len last cks calculated hC hlast hcks hdue
  obtain ⟨last', cks', hlast', hcks', -, hsecond, hpayload, hsum, hclassify⟩ := classify_candidate hC
  obtain rfl := Option.some.inj (hlast.symm.trans hlast')
  obtain rfl := Option.some.inj (hcks.symm.trans hcks')
  obtain rfl : calculated = _ := BitVec.eq_of_toNat_eq (hdue.trans hsum.symm)
  rw [← hpayload]
  refine ⟨fun hbad => ?_, fun hgood hdiff => ?_, fun hgood hequal hother => ?_, fun hgood hequal htelemetry => ?_⟩
  · rw [if_pos hbad] at hclassify
    rw [exec_validate_of_classify hclassify, report_terminatorBad]
    rfl
  · rw [if_neg (not_not_intro hgood), if_pos hdiff] at hclassify
    rw [exec_validate_of_classify hclassify, report_checksumBad, examined_checksumBad hC]
    rfl
  all_goals
    rw [if_neg (not_not_intro hgood), if_neg (not_not_intro hequal)] at hclassify
    rw [exec_validate_of_classify hclassify, examined_valid hC hsecond]
  · rw [report_unrecognized _ _ hother]
    rfl
  · subst htelemetry
    have hsize := hC.size
    obtain ⟨r, hr, hreport⟩ := report_decoded (payload := payloadOf cand) (by
      rw [hpayload, List.length_drop, List.length_take, hsize]; decide)
    exact ⟨r, hr, by rw [hreport]; rfl⟩

/-! ### The validator as its steps -/

/-- Steps (a) to (d) behind a good terminator: control is at the comparison, with the values of the candidate. -/
theorem runSteps_examine {s : State} {len cks : Byte} (hctrl : s.work.ctrl = .term) (hC : Candidate s.work.frame len)
    (hlast : s.work.frame.getLast? = some 0xFE) (hcks : s.work.frame[s.work.frame.length - 2]? = some cks) (n : Nat) :
    runSteps inValidator (n + 4) s = runSteps inValidator n
      { s with work := { s.work with cmd := len, cks := cks, payload := payloadOf s.work.frame,
                                     calculated := checksumOf len len (payloadOf s.work.frame), ctrl := .compare } } :=
  calc runSteps inValidator (n + 4) s
    _ = runSteps inValidator (n + 3) { s with work := { s.work with ctrl := .extract } } :=
      runSteps_succ (by rw [hctrl]; rfl) (by simp [nextOperation, hctrl])
        ((valTermComparesLastByte s _ _ hlast).2 rfl)
    _ = runSteps inValidator (n + 2) { s with work := { s.work with cmd := len, cks := cks, ctrl := .payload } } :=
      runSteps_succ rfl rfl (valExtractReadsCommandAndChecksum _ _ _ _ hC.length hcks)
    _ = runSteps inValidator (n + 1) { s with work := { s.work with
          cmd := len, cks := cks, payload := payloadOf s.work.frame, ctrl := .calculate } } :=
      runSteps_succ rfl rfl (exec_valPayload _ _)
    _ = _ := runSteps_succ rfl (congrArg (Option.map _) hC.length) (exec_valCalc _ _ _ _)

/-- Settles O40: each outcome ends the steps at the step that reports it. -/
theorem validateIsItsSteps : Obligations.ValidateIsItsSteps := by
  intro s len hC hctrl
  obtain ⟨last, cks, -, -, hlast, hcks, hpayload, -, hclassify⟩ := classify_candidate hC
  rw [byteAt_length_sub_one] at hlast
  by_cases hbad : last ≠ 0xFE
  · rw [if_pos hbad] at hclassify
    refine ⟨_, exec_validate_of_classify hclassify s, ?_⟩
    rw [runSteps_succ (by rw [hctrl]; rfl) (by simp [nextOperation, hctrl])
      ((valTermComparesLastByte s _ _ hlast).1 hbad)]
    exact runSteps_outside rfl 5
  · obtain rfl := not_not.1 hbad
    rw [if_neg hbad] at hclassify
    by_cases hdiff : checksumOf len len (payloadOf s.work.frame) ≠ cks
    · rw [if_pos hdiff] at hclassify
      refine ⟨_, exec_validate_of_classify hclassify s, ?_⟩
      rw [runSteps_examine hctrl hC hlast hcks, examined_checksumBad hC,
        runSteps_succ rfl rfl ((valMismatchReportsDifference _ _ _).1 hdiff)]
      exact runSteps_outside rfl 1
    · rw [if_neg hdiff] at hclassify
      refine ⟨_, exec_validate_of_classify hclassify s, ?_⟩
      rw [runSteps_examine hctrl hC hlast hcks, examined_valid hC hcks,
        runSteps_succ rfl rfl ((valMismatchReportsDifference _ _ _).2 (not_not.1 hdiff)),
        runSteps_succ rfl rfl (exec_valAccept _ _ _)]
      rfl

end Sys2Proof.Machine

/-! TelemetryDecoder (43_telemetrydecoder.md R69 to R83): the call as a whole, its guard, and the rows that build the
record field by field (log entry 3). -/

namespace Sys2Proof.Machine

open Sys2Proof.Safety

/-! ### The call and its guard -/

/-- DECODE is one call of the decoder (R69). -/
theorem exec_decode (cmd : Byte) (payload : List Byte) (s : State) :
    exec (.decode cmd payload) s = .next (decodePayload cmd payload s) := rfl

/-- DECODE.GUARD's arm of `exec`. -/
theorem exec_decodeGuard (cmd : Byte) (payload : List Byte) (s : State) :
    exec (.decodeGuard cmd payload) s = execDecodeGuard cmd payload s := rfl

/-- One call of the decoder as an update of the state: its events behind the others, and no record (R83). -/
theorem decodePayload_eq (cmd : Byte) (payload : List Byte) (s : State) :
    decodePayload cmd payload s =
      { s with events := s.events ++ decodeEvents cmd payload, work := { s.work with record := none } } := rfl

/-- Settles O49: the decoder's events by command and length, and no record kept in any branch. -/
theorem decodeBranches : Obligations.DecodeBranches := by
  intro s cmd payload
  refine ⟨fun hother => ?_, fun htelemetry hshort => ?_, fun htelemetry hlong => ?_⟩
  · rw [exec_decode, decodePayload_eq, decodeEvents_other hother, List.append_nil]
  · subst htelemetry
    rw [exec_decode, decodePayload_eq, decodeEvents_short hshort]
  · subst htelemetry
    obtain ⟨r, hr, hevents⟩ := decodeEvents_telemetry hlong
    exact ⟨r, recordReads_of_recordOf hr, by rw [exec_decode, decodePayload_eq, hevents]⟩

/-- The guard lets a call through where the command is another or the payload long enough (R70, R71). -/
theorem exec_decodeGuard_passes {cmd : Byte} {payload : List Byte} (h : cmd = 0x11 → 15 ≤ payload.length) (s : State) :
    exec (.decodeGuard cmd payload) s = .next { s with work := { s.work with record := none } } :=
  if_neg fun hstop => Nat.not_lt.2 (h hstop.1) hstop.2

/-- Settles O50: the two branches of the guard for the telemetry command. -/
theorem decodeGuardNeedsFifteen : Obligations.DecodeGuardNeedsFifteen :=
  fun s _ => ⟨fun hshort => if_pos ⟨rfl, hshort⟩, fun hlong => exec_decodeGuard_passes (fun _ => hlong) s⟩

/-- Settles O51: for another command the guard lets the call through. -/
theorem decodeOtherIsSilent : Obligations.DecodeOtherIsSilent :=
  fun s _ _ hother => ⟨rfl, exec_decodeGuard_passes (fun h => absurd h hother) s⟩

/-! ### The fields -/

/-- Settles O52: `le24` and `le16` are the values of their bytes, unwrapped. -/
theorem multiByteFieldsAreLittleEndian : Obligations.MultiByteFieldsAreLittleEndian := by
  intro s b0 b1 b2 v d r hv hd hr
  obtain rfl : v = le24 b0 b1 b2 := BitVec.eq_of_toNat_eq (hv.trans (le24_toNat b0 b1 b2).symm)
  obtain rfl : d = le16 b0 b1 := BitVec.eq_of_toNat_eq (hd.trans (le16_toNat b0 b1).symm)
  subst hr
  exact ⟨rfl, rfl, rfl, rfl⟩

/-- Settles O53: each row sets its field of the record being built, or nothing. -/
theorem oneByteFieldsAreUnchanged : Obligations.OneByteFieldsAreUnchanged := by
  intro s b r hr
  subst hr
  exact ⟨rfl, rfl, rfl, rfl⟩

/-- A payload that holds a record gives it as the record being built. -/
theorem exec_telemPayload_of_record {payload : List Byte} {r : TelemetryRecord} (h : recordOf payload = some r)
    (s : State) :
    exec (.telemPayload payload) s = .next { s with work := { s.work with record := some r } } := by
  simp only [exec_telemPayload, execTelemPayload, h]
  rfl

/-- Settles O54: fifteen bytes hold a record, and it replaces the one being built. -/
theorem payloadGivesRecord : Obligations.PayloadGivesRecord := by
  intro s payload hsize
  obtain ⟨r, hr⟩ := Option.isSome_iff_exists.1 (recordOf_isSome.2 hsize.ge)
  exact ⟨r, recordReads_of_recordOf hr, exec_telemPayload_of_record hr s⟩

/-! ### The flag byte (R40, R80, R81) -/

/-- The four masks are the four lowest bits. -/
theorem flagSet_eq_getLsbD (flags : Byte) :
    flagSet flags Config.faultController = flags.getLsbD 0 ∧ flagSet flags Config.faultDisplay = flags.getLsbD 1 ∧
    flagSet flags Config.faultBattery = flags.getLsbD 2 ∧ flagSet flags Config.faultCurrentLimit = flags.getLsbD 3 := by
  revert flags
  decide

theorem noFaultsOf_eq (flags : Byte) : noFaultsOf flags = decide (flags.toNat % 16 = 0) := by
  revert flags
  decide

/-- A flag row decides its own name and keeps the three others (R80). -/
theorem mem_withFault {present : Bool} {name other : FaultName} {faults : List FaultName} :
    other ∈ withFault present name faults ↔ if other = name then present = true else other ∈ faults := by
  have hlisted : other ∈ [FaultName.controllerFault, .displayFault, .batteryFault, .currentLimiting] := by
    cases other <;> simp
  simp only [withFault, List.mem_filter, hlisted, true_and]
  split <;> simp

/-- All four flag rows together give the list of the byte, whatever list stood there (R80). -/
theorem withFault_all (flags : Byte) (faults : List FaultName) :
    withFault (flagSet flags Config.faultCurrentLimit) .currentLimiting
      (withFault (flagSet flags Config.faultBattery) .batteryFault
        (withFault (flagSet flags Config.faultDisplay) .displayFault
          (withFault (flagSet flags Config.faultController) .controllerFault faults))) = faultList flags := by
  rw [withFault_eq]
  simp [mem_withFault, faultList, faultIf]

/-- Settles O56: a row's mask is its bit, and its list is the four names taken one by one. -/
theorem flagRowsAddSetFaults : Obligations.FlagRowsAddSetFaults := by
  intro s flags r c d b l hr hc hd hb hl
  obtain ⟨h0, h1, h2, h3⟩ := flagSet_eq_getLsbD flags
  have hrow : ∀ (mask : Byte) (name : FaultName), setFault flags mask name s =
      .next { s with work := { s.work with record := some { r with
        faults := withFault (flagSet flags mask) name r.faults } } } := by
    subst hr
    exact fun _ _ => rfl
  subst hc hd hb hl
  refine ⟨(hrow _ _).trans ?_, (hrow _ _).trans ?_, (hrow _ _).trans ?_, (hrow _ _).trans ?_, rfl⟩
  · simp [withFault_eq, h0]
  · simp [withFault_eq, h1]
  · simp [withFault_eq, h2]
  · simp [withFault_eq, h3]

/-- Settles O57: the four defined bits are the remainder modulo 16. -/
theorem noFaultsLooksAtDefinedBits : Obligations.NoFaultsLooksAtDefinedBits := by
  intro s flags r hr
  subst hr
  rw [← noFaultsOf_eq]
  rfl

/-! ### The rows together -/

/-- A record that is set is the one the next row goes on with. -/
theorem andThen_setRecord (r : TelemetryRecord) (s : State) (k : State → Result) :
    andThen (setRecord r s) k = k (s.setWork { s.work with record := some r }) := rfl

/-- A row's record takes the place of the one before. -/
theorem setRecord_setWork_record (r r' : TelemetryRecord) (s : State) :
    setRecord r' (s.setWork { s.work with record := some r }) = setRecord r' s := rfl

theorem building_of_record (w : Work) (r : TelemetryRecord) : { w with record := some r }.building = r := rfl

/-- Settles O55: every field of the record is written once, the list of names by the four flag rows together. -/
theorem fieldRowsBuildRecord : Obligations.FieldRowsBuildRecord := by
  intro s p0 p1 p2 p3 p4 p5 p6 p7 p8 p9 p10 p11 p12 p13 p14
  refine ⟨_, _, _, _, exec_decodeGuard_passes (fun _ => of_decide_eq_true rfl) s, exec_telemPayload_of_record rfl s, ?_,
    rfl, rfl, rfl⟩
  intro w hw
  simp only [List.foldl_cons, List.foldl_nil, andThen_next, andThen_setRecord, exec, execTelemOdometer, execTelemTotalTime,
    execTelemTripDistance, execTelemTripTime, execTelemRemainingRange, execTelemReserved12, execTelemBatteryPercent,
    execTelemErrorFlags, execErrFlagController, execErrFlagDisplay, execErrFlagBattery, execErrFlagCurrentLimiting,
    execErrFlagIgnored, execNoFaults, setFault, setRecord_setWork_record, building_of_record, State.setWork_work,
    withFault_all]
  rcases hw with rfl | rfl <;> rfl

end Sys2Proof.Machine

/-! EVENT rows and the frame of all operations (60_exceptions.md R99, R102; 10_state.md R7). -/

namespace Sys2Proof.Machine

open Sys2Proof.Safety

/-- Settles O58: each row is `emit` of its event, and the decoder's two drop the record. -/
theorem eventRowsAppend : Obligations.EventRowsAppend := fun _ _ _ _ _ => ⟨rfl, rfl, rfl, rfl, rfl⟩

/-- Settles O59: the assignment of `Event.code` and `DecodeReason.code`. -/
theorem eventCodes : Obligations.EventCodes := fun _ _ _ => ⟨rfl, rfl, rfl, rfl, rfl, rfl⟩

/-! ### What an operation keeps -/

/-- From `s` to `t` no byte and no waiting operation changed, and events were at most added behind the others. -/
structure OnlyEmits (s t : State) : Prop where
  buf    : t.buf = s.buf
  inbox  : t.inbox = s.inbox
  events : ∃ es, t.events = s.events ++ es

theorem onlyEmits_refl (s : State) : OnlyEmits s s := ⟨rfl, rfl, [], (List.append_nil _).symm⟩

theorem onlyEmits_setWork (s : State) (w : Work) : OnlyEmits s (s.setWork w) :=
  ⟨rfl, rfl, [], (List.append_nil _).symm⟩

theorem onlyEmits_report (v : Verdict) (s : State) : OnlyEmits s (report v s) := ⟨rfl, rfl, v.events, rfl⟩

theorem onlyEmits_emit (es : List Event) (s : State) : OnlyEmits s (s.emit es) := ⟨rfl, rfl, es, rfl⟩

theorem onlyEmits_emit_dropRecord (es : List Event) (s : State) : OnlyEmits s (s.emit es).dropRecord :=
  ⟨rfl, rfl, es, rfl⟩

theorem onlyEmits_validateFrame {frame : List Byte} {s t : State} {w : Work}
    (h : validateFrame frame (s.setWork w) = .next t) : OnlyEmits s t := by
  obtain ⟨v, -, rfl⟩ := validateFrame_next.1 h
  exact ⟨rfl, rfl, v.events, rfl⟩

theorem onlyEmits_scanFind {s t : State} (h : execScanFind s = .next t) : OnlyEmits s t := by
  unfold execScanFind at h
  split at h
  · cases h
    exact onlyEmits_setWork s _
  · cases h
    exact onlyEmits_setWork s _

theorem onlyEmits_scanLength {i : Nat} {s t : State} (h : execScanLength i s = .next t) : OnlyEmits s t := by
  unfold execScanLength at h
  split at h
  · cases h
  · dsimp only at h
    split at h
    · cases h
      exact onlyEmits_setWork s _
    · cases h
      exact onlyEmits_setWork s _

theorem onlyEmits_valTerm {frame : List Byte} {s t : State} (h : execValTerm frame s = .next t) : OnlyEmits s t := by
  unfold execValTerm at h
  split at h
  · cases h
  · split at h
    · cases h
      exact onlyEmits_report _ s
    · cases h
      exact onlyEmits_setWork s _

theorem onlyEmits_valExtract {frame : List Byte} {s t : State} (h : execValExtract frame s = .next t) :
    OnlyEmits s t := by
  unfold execValExtract at h
  split at h
  · cases h
    exact onlyEmits_setWork s _
  · cases h

theorem onlyEmits_telemPayload {payload : List Byte} {s t : State} (h : execTelemPayload payload s = .next t) :
    OnlyEmits s t := by
  unfold execTelemPayload at h
  split at h
  · cases h
    exact onlyEmits_setWork s _
  · cases h

/-- A condition that picks one of two next states picks one that only emits, if both do. -/
theorem onlyEmits_ite {p : Prop} [Decidable p] {s t a b : State} (ha : OnlyEmits s a) (hb : OnlyEmits s b)
    (h : (if p then .next a else .next b : Result) = .next t) : OnlyEmits s t := by
  split at h
  · cases h; exact ha
  · cases h; exact hb

/-- An operation that does not move the buffer only emits (R7). -/
theorem exec_onlyEmits {i : Instr} {s t : State} (hi : movesBuffer i = false) (h : exec i s = .next t) :
    OnlyEmits s t := by
  cases i with
  | ingest _ | reset | scanAppend _ | scanResync _ | scanConsume _ | frame _ _ _ | frameHeader _ _ | frameSentinel
  | frameReserved _ | frameTerminator | telem _ _ => cases hi
  | scanFind => exact onlyEmits_scanFind h
  | scanHeader _ => exact onlyEmits_ite (onlyEmits_setWork s _) (onlyEmits_setWork s _) h
  | scanLength _ => exact onlyEmits_scanLength h
  | scanSlice _ _ | validate _ => exact onlyEmits_validateFrame h
  | valTerm _ => exact onlyEmits_valTerm h
  | valExtract _ => exact onlyEmits_valExtract h
  | valMismatch _ _ => exact onlyEmits_ite (onlyEmits_report _ s) (onlyEmits_setWork s _) h
  | cmdLen1 _ => exact onlyEmits_ite (onlyEmits_report _ s) (onlyEmits_report _ s) h
  | decodeGuard _ _ => exact onlyEmits_ite (onlyEmits_emit_dropRecord _ s) (onlyEmits_setWork s _) h
  | telemPayload _ => exact onlyEmits_telemPayload h
  | telemReserved12 _ | errFlagIgnored _ => cases h; exact onlyEmits_refl s
  | valAccept _ _ | cmdTelemetry _ | cmdUnrecognized _ _ | cmdLen0 => cases h; exact onlyEmits_report _ s
  | decode _ _ | evTelemetryDecoded _ | evDecodeError _ => cases h; exact onlyEmits_emit_dropRecord _ s
  | evFrameAccepted _ | evTerminatorMismatch _ _ | evChecksumMismatch _ _ => cases h; exact onlyEmits_emit _ s
  | _ => cases h; exact onlyEmits_setWork s _

/-- A drop and the return to the search touch neither the waiting operations nor the events. -/
theorem dropHead_goes_on {k : Nat} {s t : State}
    (h : andThen (dropHead k s) (fun u => .next (continueScan u)) = .next t) :
    t.inbox = s.inbox ∧ t.events = s.events := by
  cases hdrop : dropHead k s with
  | next u =>
    obtain ⟨-, rfl⟩ := dropHead_next.1 hdrop
    rw [hdrop] at h
    cases h
    exact ⟨rfl, rfl⟩
  | fault _ | refused _ => rw [hdrop] at h; cases h

/-- An operation that moves the buffer keeps the waiting operations, and outside transactions the events too. -/
theorem exec_moving_keeps {i : Instr} {s t : State} (hi : movesBuffer i = true) (h : exec i s = .next t) :
    t.inbox = s.inbox ∧ (isTransaction i = false → t.events = s.events) := by
  cases i with
  | ingest _ | reset | frame _ _ _ | frameHeader _ _ | frameSentinel | frameReserved _ | frameTerminator | telem _ _ =>
    exact ⟨(transaction_leaves_rest rfl h).2, fun hno => (nomatch hno)⟩
  | scanAppend chunk =>
    rw [scanAppendAppends] at h
    cases h
    exact ⟨rfl, fun _ => rfl⟩
  | scanResync _ | scanConsume _ =>
    obtain ⟨hinbox, hevents⟩ := dropHead_goes_on h
    exact ⟨hinbox, fun _ => hevents⟩
  | _ => cases hi

/-- Settles O60: an operation that does not move the buffer only emits, and one that does keeps the rest. -/
theorem onlyScannerChangesBuffer : Obligations.OnlyScannerChangesBuffer := by
  intro i s t hexec
  cases hmoves : movesBuffer i with
  | false =>
    obtain ⟨hbuf, hinbox, hevents⟩ := exec_onlyEmits hmoves hexec
    exact ⟨hinbox, fun _ k => by rw [hbuf], fun _ => hevents⟩
  | true =>
    obtain ⟨hinbox, hevents⟩ := exec_moving_keeps hmoves hexec
    exact ⟨hinbox, fun h => (nomatch h), fun hno => ⟨[], by rw [hevents hno, List.append_nil]⟩⟩

end Sys2Proof.Machine
